-- ==== Sys2Proof/Word.lean ====
section
/-! DEFINITION. The word types of 00_scope.md R8 and R13. A `U1` of the spec is a `Bool`. -/

namespace Sys2Proof

/-- A limb, an entropy word, and the datum of one host access (`LIMB_BITS = 64`, R8, R10). -/
abbrev U64 := BitVec 64

/-- A field element pattern (`ELEM_BITS = 256`, R8, R20). -/
abbrev U256 := BitVec 256

/-- The full product of two field element patterns (R150). -/
abbrev U512 := BitVec 512

/-- One command word (30_encoding.md R90). -/
abbrev CmdWord := BitVec 32

/-- One byte of the register window, for the byte order of 20_memory.md R62. -/
abbrev Byte := BitVec 8

end Sys2Proof
end

