-- ==== Sys2Proof/Config.lean ====
section
/-! DEFINITION. The free values of the machine: the spec's `draw(T)`, "an unspecified value of type `T`: the rule
fixes nothing about it, and two evaluations need not agree" (00_scope.md R14). Each is a constant with no body,
applied to the number of the draw, which State counts; no statement may rest on which value it is. -/

namespace Sys2Proof

/-- `draw(U256)`: the destination of a modular command with an out-of-domain operand
(93_implementation_defined.md U2). DESIGN CHOICE (notes/assumptions/3.md): a fresh value per draw number. -/
opaque Config.drawU256 : Nat → U256

/-- `draw(U64)`: the data of a read of an unwritten limb, or of any limb in phase BUSY (U1, U11).
DESIGN CHOICE (notes/assumptions/3.md). -/
opaque Config.drawU64 : Nat → U64

/-- `draw(U1)`: a flag computed from an unwritten register (U1). DESIGN CHOICE (notes/assumptions/3.md). -/
opaque Config.drawU1 : Nat → Bool

end Sys2Proof
end

