-- ==== Sys2Proof/Syntax.lean ====
section
/-! DEFINITION. The command set FAU-1 as syntax: one constructor of `Instr` for each row of spec/opcode_table.json
(30_encoding.md R97), with the operands its format uses (R93). -/

namespace Sys2Proof

/-- The eight field registers (10_state.md R21); none is hardwired (R22). -/
inductive FReg where
  | f0 | f1 | f2 | f3 | f4 | f5 | f6 | f7
deriving DecidableEq, Repr

/-- The four limbs of a field element, least significant first (00_scope.md R13). -/
inductive LimbIx where
  | l0 | l1 | l2 | l3
deriving DecidableEq, Repr

/-- The four flags of `FLAGS` (10_state.md R26). -/
inductive Flag where
  | ovf | eq | cry | brw
deriving DecidableEq, Repr

/-- The four causes of a recorded fault (60_exceptions.md R231). -/
inductive Cause where
  | illegalOpcode | illegalOperand | cmdHigh | busyViolation
deriving DecidableEq, Repr

/-- The seven formats of a command word (R93). -/
inductive Format where
  | z | d | s | ss | ds | dc | dss
deriving DecidableEq, Repr

/-- The 21 opcodes by their mnemonics (R97). -/
inductive Opcode where
  | nop | fmov | fldc
  | chkovf | fixovf | fixunf | feq | wadd | wsub
  | fadd | fsub | fneg
  | bmul | bsqr
  | mmul | msqr | tomont | frommont
  | pow | inv
  | rand
deriving DecidableEq, Repr

/-- A command. Register operands stand in the order `rd`, `rs1`, `rs2` (R113). The constant selector of `FLDC` is
its 4-bit field; which values are legal is `Instr.wf` (R94, R104). -/
inductive Instr where
  /-- `NOP` (R220) -/
  | nop
  /-- `FMOV fd, fs` (R221) -/
  | fmov (rd rs : FReg)
  /-- `FLDC fd, #c` (R222) -/
  | fldc (rd : FReg) (c : BitVec 4)
  /-- `CHKOVF fs` (R126) -/
  | chkovf (rs : FReg)
  /-- `FIXOVF fd, fs` (R127) -/
  | fixovf (rd rs : FReg)
  /-- `FIXUNF fd, fs` (R128) -/
  | fixunf (rd rs : FReg)
  /-- `FEQ fs1, fs2` (R129) -/
  | feq (rs1 rs2 : FReg)
  /-- `WADD fd, fs1, fs2` (R130) -/
  | wadd (rd rs1 rs2 : FReg)
  /-- `WSUB fd, fs1, fs2` (R131) -/
  | wsub (rd rs1 rs2 : FReg)
  /-- `FADD fd, fs1, fs2` (R140) -/
  | fadd (rd rs1 rs2 : FReg)
  /-- `FSUB fd, fs1, fs2` (R141) -/
  | fsub (rd rs1 rs2 : FReg)
  /-- `FNEG fd, fs` (R142) -/
  | fneg (rd rs : FReg)
  /-- `BMUL fd, fs1, fs2` (R153) -/
  | bmul (rd rs1 rs2 : FReg)
  /-- `BSQR fd, fs` (R154) -/
  | bsqr (rd rs : FReg)
  /-- `MMUL fd, fs1, fs2` (R173) -/
  | mmul (rd rs1 rs2 : FReg)
  /-- `MSQR fd, fs` (R174) -/
  | msqr (rd rs : FReg)
  /-- `TOMONT fd, fs` (R175) -/
  | tomont (rd rs : FReg)
  /-- `FROMMONT fd, fs` (R176) -/
  | frommont (rd rs : FReg)
  /-- `POW fd, fbase, fexp` (R191) -/
  | pow (rd rs1 rs2 : FReg)
  /-- `INV fd, fs` (R198) -/
  | inv (rd rs : FReg)
  /-- `RAND fd` (R214) -/
  | rand (rd : FReg)
deriving DecidableEq, Repr

/-- What the decoder makes of a value written to `CMD`: exactly one command or exactly one cause (R101). -/
inductive Decoded where
  | legal (i : Instr)
  | illegal (c : Cause)
deriving DecidableEq, Repr

end Sys2Proof
end

