-- ==== Sys2Proof/WellFormed.lean ====
section
/-! DEFINITION. The check on a command that its type does not already make: the selector of `FLDC` names one of
the six constants (30_encoding.md R94, R104; 10_state.md R37). Register indices of 8 and above, non-zero unused
fields and a non-zero `zero` field have no term of `Instr` at all; the decoder refuses their words. -/

namespace Sys2Proof

/-- The legal constant selectors are 0 to 5 (10_state.md R37). -/
def selectorLegal (c : BitVec 4) : Bool := decide (c.toNat ≤ 5)

/-- The commands a command word can encode. -/
def Instr.wf : Instr → Bool
  | .nop => true
  | .fmov _ _ => true
  | .fldc _ c => selectorLegal c
  | .chkovf _ => true
  | .fixovf _ _ => true
  | .fixunf _ _ => true
  | .feq _ _ => true
  | .wadd _ _ _ => true
  | .wsub _ _ _ => true
  | .fadd _ _ _ => true
  | .fsub _ _ _ => true
  | .fneg _ _ => true
  | .bmul _ _ _ => true
  | .bsqr _ _ => true
  | .mmul _ _ _ => true
  | .msqr _ _ => true
  | .tomont _ _ => true
  | .frommont _ _ => true
  | .pow _ _ _ => true
  | .inv _ _ => true
  | .rand _ => true

end Sys2Proof
end

