-- ==== Sys2Proof/Decode.lean ====
section
/-! DEFINITION. The decoder of 30_encoding.md R101, total on the 64-bit values a host can write to `CMD`, and the
encoder of R98, both from the opcode map R97 and the format masks R93. -/

namespace Sys2Proof

/-- The `op` byte of each command (R97). -/
def Opcode.code : Opcode → BitVec 8
  | .nop => 0x00#8
  | .fmov => 0x01#8
  | .fldc => 0x02#8
  | .chkovf => 0x10#8
  | .fixovf => 0x11#8
  | .fixunf => 0x12#8
  | .feq => 0x13#8
  | .wadd => 0x14#8
  | .wsub => 0x15#8
  | .fadd => 0x18#8
  | .fsub => 0x19#8
  | .fneg => 0x1a#8
  | .bmul => 0x20#8
  | .bsqr => 0x21#8
  | .mmul => 0x30#8
  | .msqr => 0x31#8
  | .tomont => 0x32#8
  | .frommont => 0x33#8
  | .pow => 0x40#8
  | .inv => 0x41#8
  | .rand => 0x50#8

/-- The format of each command (R93, R97). -/
def Opcode.format : Opcode → Format
  | .nop => .z
  | .fmov => .ds
  | .fldc => .dc
  | .chkovf => .s
  | .fixovf => .ds
  | .fixunf => .ds
  | .feq => .ss
  | .wadd => .dss
  | .wsub => .dss
  | .fadd => .dss
  | .fsub => .dss
  | .fneg => .ds
  | .bmul => .dss
  | .bsqr => .ds
  | .mmul => .dss
  | .msqr => .ds
  | .tomont => .ds
  | .frommont => .ds
  | .pow => .dss
  | .inv => .ds
  | .rand => .d

/-- The bits of a word that must equal the command's match (R93). -/
def Format.mask : Format → CmdWord
  | .z => 0xffffffff#32
  | .d => 0xfffff8ff#32
  | .s => 0xffff8fff#32
  | .ss => 0xfff88fff#32
  | .ds => 0xffff88ff#32
  | .dc => 0xffff88ff#32
  | .dss => 0xfff888ff#32

/-- The match of a command: its opcode in bits 7:0 and 0 elsewhere (R93). -/
def Opcode.matchWord (op : Opcode) : CmdWord := op.code.setWidth 32

/-- The opcode map in the order of R97. -/
def Opcode.all : List Opcode :=
  [.nop, .fmov, .fldc, .chkovf, .fixovf, .fixunf, .feq, .wadd, .wsub, .fadd, .fsub, .fneg,
   .bmul, .bsqr, .mmul, .msqr, .tomont, .frommont, .pow, .inv, .rand]

/-- The command an `op` byte names, if it names one (R97, R103). -/
def Opcode.ofCode? (b : BitVec 8) : Option Opcode := Opcode.all.find? (fun op => op.code == b)

/-- The value of a register field: the register's number (R92). -/
def FReg.code : FReg → BitVec 4
  | .f0 => 0#4
  | .f1 => 1#4
  | .f2 => 2#4
  | .f3 => 3#4
  | .f4 => 4#4
  | .f5 => 5#4
  | .f6 => 6#4
  | .f7 => 7#4

/-- The register that the low three bits of a legal register field name (R92); bit 3 of a used field is in the mask
of its format and is 0 in every legal word. -/
def FReg.ofBits (b : BitVec 3) : FReg :=
  match b.toNat with
  | 0 => .f0
  | 1 => .f1
  | 2 => .f2
  | 3 => .f3
  | 4 => .f4
  | 5 => .f5
  | 6 => .f6
  | _ => .f7

/-- Field `op`, bits 7:0 (R91). -/
def opField (w : CmdWord) : BitVec 8 := w.extractLsb' 0 8

/-- The register named by field `rd`, bits 11:8 (R91). -/
def rdField (w : CmdWord) : FReg := FReg.ofBits (w.extractLsb' 8 3)

/-- The register named by field `rs1`, bits 15:12 (R91). -/
def rs1Field (w : CmdWord) : FReg := FReg.ofBits (w.extractLsb' 12 3)

/-- The register named by field `rs2`, bits 19:16 (R91). -/
def rs2Field (w : CmdWord) : FReg := FReg.ofBits (w.extractLsb' 16 3)

/-- The constant selector of `FLDC`, bits 15:12 (R94). -/
def selectorField (w : CmdWord) : BitVec 4 := w.extractLsb' 12 4

/-- The command of an opcode with the operands its format takes from the word (R93). -/
def commandOf (op : Opcode) (w : CmdWord) : Instr :=
  match op with
  | .nop => .nop
  | .fmov => .fmov (rdField w) (rs1Field w)
  | .fldc => .fldc (rdField w) (selectorField w)
  | .chkovf => .chkovf (rs1Field w)
  | .fixovf => .fixovf (rdField w) (rs1Field w)
  | .fixunf => .fixunf (rdField w) (rs1Field w)
  | .feq => .feq (rs1Field w) (rs2Field w)
  | .wadd => .wadd (rdField w) (rs1Field w) (rs2Field w)
  | .wsub => .wsub (rdField w) (rs1Field w) (rs2Field w)
  | .fadd => .fadd (rdField w) (rs1Field w) (rs2Field w)
  | .fsub => .fsub (rdField w) (rs1Field w) (rs2Field w)
  | .fneg => .fneg (rdField w) (rs1Field w)
  | .bmul => .bmul (rdField w) (rs1Field w) (rs2Field w)
  | .bsqr => .bsqr (rdField w) (rs1Field w)
  | .mmul => .mmul (rdField w) (rs1Field w) (rs2Field w)
  | .msqr => .msqr (rdField w) (rs1Field w)
  | .tomont => .tomont (rdField w) (rs1Field w)
  | .frommont => .frommont (rdField w) (rs1Field w)
  | .pow => .pow (rdField w) (rs1Field w) (rs2Field w)
  | .inv => .inv (rdField w) (rs1Field w)
  | .rand => .rand (rdField w)

/-- The last two tests of R101, on a word whose `op` is legal (R104). -/
def decodeOperands (op : Opcode) (w : CmdWord) : Decoded :=
  if w &&& op.format.mask ≠ op.matchWord then .illegal .illegalOperand
  else if op = .fldc ∧ selectorLegal (selectorField w) = false then .illegal .illegalOperand
  else .legal (commandOf op w)

/-- The tests of R101 on the low 32 bits: the opcode test and then the operand tests (R103, R104). -/
def decodeWord (w : CmdWord) : Decoded :=
  match Opcode.ofCode? (opField w) with
  | none => .illegal .illegalOpcode
  | some op => decodeOperands op w

/-- `Decode(w)` of R101: the first test is that bits 63:32 are zero (R102). -/
def decode (w : U64) : Decoded :=
  if w.extractLsb' 32 32 ≠ 0#32 then .illegal .cmdHigh
  else decodeWord (w.setWidth 32)

/-- The command of a legal value; `none` where `Decode` gives a cause. -/
def Decoded.command? : Decoded → Option Instr
  | .legal i => some i
  | .illegal _ => none

/-- The opcode of each command. -/
def Instr.opcode : Instr → Opcode
  | .nop => .nop
  | .fmov _ _ => .fmov
  | .fldc _ _ => .fldc
  | .chkovf _ => .chkovf
  | .fixovf _ _ => .fixovf
  | .fixunf _ _ => .fixunf
  | .feq _ _ => .feq
  | .wadd _ _ _ => .wadd
  | .wsub _ _ _ => .wsub
  | .fadd _ _ _ => .fadd
  | .fsub _ _ _ => .fsub
  | .fneg _ _ => .fneg
  | .bmul _ _ _ => .bmul
  | .bsqr _ _ => .bsqr
  | .mmul _ _ _ => .mmul
  | .msqr _ _ => .msqr
  | .tomont _ _ => .tomont
  | .frommont _ _ => .frommont
  | .pow _ _ _ => .pow
  | .inv _ _ => .inv
  | .rand _ => .rand

/-- `word = op + (rd << 8) + (rs1 << 12) + (rs2 << 16)` (R98). -/
def assemble (op : Opcode) (rd rs1 rs2 : BitVec 4) : CmdWord :=
  op.code.setWidth 32 + (rd.setWidth 32 <<< 8) + (rs1.setWidth 32 <<< 12) + (rs2.setWidth 32 <<< 16)

/-- The word of a command, with unused fields 0 (R98). -/
def encode : Instr → CmdWord
  | .nop => assemble .nop 0#4 0#4 0#4
  | .fmov rd rs => assemble .fmov rd.code rs.code 0#4
  | .fldc rd c => assemble .fldc rd.code c 0#4
  | .chkovf rs => assemble .chkovf 0#4 rs.code 0#4
  | .fixovf rd rs => assemble .fixovf rd.code rs.code 0#4
  | .fixunf rd rs => assemble .fixunf rd.code rs.code 0#4
  | .feq rs1 rs2 => assemble .feq 0#4 rs1.code rs2.code
  | .wadd rd rs1 rs2 => assemble .wadd rd.code rs1.code rs2.code
  | .wsub rd rs1 rs2 => assemble .wsub rd.code rs1.code rs2.code
  | .fadd rd rs1 rs2 => assemble .fadd rd.code rs1.code rs2.code
  | .fsub rd rs1 rs2 => assemble .fsub rd.code rs1.code rs2.code
  | .fneg rd rs => assemble .fneg rd.code rs.code 0#4
  | .bmul rd rs1 rs2 => assemble .bmul rd.code rs1.code rs2.code
  | .bsqr rd rs => assemble .bsqr rd.code rs.code 0#4
  | .mmul rd rs1 rs2 => assemble .mmul rd.code rs1.code rs2.code
  | .msqr rd rs => assemble .msqr rd.code rs.code 0#4
  | .tomont rd rs => assemble .tomont rd.code rs.code 0#4
  | .frommont rd rs => assemble .frommont rd.code rs.code 0#4
  | .pow rd rs1 rs2 => assemble .pow rd.code rs1.code rs2.code
  | .inv rd rs => assemble .inv rd.code rs.code 0#4
  | .rand rd => assemble .rand rd.code 0#4 0#4

/-- The 64-bit value a host writes to `CMD` for a command: `zext_64(word)` (R98). -/
def commandValue (i : Instr) : U64 := (encode i).setWidth 64

/-- The pseudo-command `FZERO fd` (R114). -/
def pseudoFzero (fd : FReg) : Instr := .fldc fd 0#4

/-- The pseudo-command `FONE fd` (R114). -/
def pseudoFone (fd : FReg) : Instr := .fldc fd 1#4

/-- The pseudo-command `FDBL fd, fs` (R114). -/
def pseudoFdbl (fd fs : FReg) : Instr := .fadd fd fs fs

/-- The instruction the decoder reads from a table word of `nbits` bits: a command is one word, so the value on
`CMD` is the word with every bit above `nbits` zero (R90, R98). -/
def decodeTableWord (nbits w : Nat) : Option Instr :=
  (decode (BitVec.ofNat 64 (w % 2 ^ nbits))).command?

end Sys2Proof
end

