-- ==== Sys2Proof/Machine/Limbs.lean ====
section
/-! DEFINITION. Limbs and bytes of a field element (00_scope.md R13, 20_memory.md R62), the limb primitives
(40_fixups.md R120 to R122), the 256-bit chains (R123) and the 512-bit products (42_barrett.md R150, R151). -/

namespace Sys2Proof.Machine

/-- The index `j` of a limb as a number. -/
def limbIndex : LimbIx → Nat
  | .l0 => 0
  | .l1 => 1
  | .l2 => 2
  | .l3 => 3

/-- `limb(v, j) = v[64j+63 : 64j]` (R13). -/
def limb (v : U256) (j : LimbIx) : U64 := v.extractLsb' (64 * limbIndex j) 64

/-- The element with the given limbs, least significant first (R13). -/
def ofLimbs (a0 a1 a2 a3 : U64) : U256 := a3 ++ a2 ++ a1 ++ a0

/-- `v` with limb `j` replaced by `w` and the other three limbs unchanged (20_memory.md R66). -/
def setLimb (v : U256) (j : LimbIx) (w : U64) : U256 :=
  match j with
  | .l0 => ofLimbs w (limb v .l1) (limb v .l2) (limb v .l3)
  | .l1 => ofLimbs (limb v .l0) w (limb v .l2) (limb v .l3)
  | .l2 => ofLimbs (limb v .l0) (limb v .l1) w (limb v .l3)
  | .l3 => ofLimbs (limb v .l0) (limb v .l1) (limb v .l2) w

/-- Byte `k` of a 64-bit word, `k` in 0 to 7: bits `8k+7 : 8k` (20_memory.md R62). -/
def byteOf (w : U64) (k : Nat) : Byte := w.extractLsb' (8 * k) 8

/-- `adc(x, y, cin) -> (r, cout)` (R120). -/
def adc (x y : U64) (cin : Bool) : U64 × Bool :=
  let s := x.toNat + y.toNat + cin.toNat
  (BitVec.ofNat 64 s, decide (2 ^ 64 ≤ s))

/-- `sbb(x, y, bin) -> (r, bout)` (R121). -/
def sbb (x y : U64) (bin : Bool) : U64 × Bool :=
  let d : Int := (x.toNat : Int) - (y.toNat : Int) - (bin.toNat : Int)
  (BitVec.ofInt 64 d, decide (d < 0))

/-- `wmul(x, y) -> (lo, hi)` (R122). -/
def wmul (x y : U64) : U64 × U64 :=
  let p := x.toNat * y.toNat
  (BitVec.ofNat 64 p, BitVec.ofNat 64 (p >>> 64))

/-- `add256(x, y) -> (s, c)`: the `adc` chain over limbs 0 to 3 (R123). -/
def add256 (x y : U256) : U256 × Bool :=
  let r0 := adc (limb x .l0) (limb y .l0) false
  let r1 := adc (limb x .l1) (limb y .l1) r0.2
  let r2 := adc (limb x .l2) (limb y .l2) r1.2
  let r3 := adc (limb x .l3) (limb y .l3) r2.2
  (ofLimbs r0.1 r1.1 r2.1 r3.1, r3.2)

/-- `sub256(x, y) -> (d, b)`: the `sbb` chain over limbs 0 to 3 (R123). -/
def sub256 (x y : U256) : U256 × Bool :=
  let r0 := sbb (limb x .l0) (limb y .l0) false
  let r1 := sbb (limb x .l1) (limb y .l1) r0.2
  let r2 := sbb (limb x .l2) (limb y .l2) r1.2
  let r3 := sbb (limb x .l3) (limb y .l3) r2.2
  (ofLimbs r0.1 r1.1 r2.1 r3.1, r3.2)

/-- The product of limb `i` of `x` and limb `j` of `y`, both halves of the `wmul`, at limb position `i + j` (R150). -/
def partialProduct (x y : U256) (i j : LimbIx) : Nat :=
  let p := wmul (limb x i) (limb y j)
  (p.1.toNat + 2 ^ 64 * p.2.toNat) <<< (64 * (limbIndex i + limbIndex j))

/-- The four partial products of limb `i` of `x` with the limbs of `y` (R150). -/
def productRow (x y : U256) (i : LimbIx) : Nat :=
  partialProduct x y i .l0 + partialProduct x y i .l1 + partialProduct x y i .l2 + partialProduct x y i .l3

/-- `mul512(x, y)`: the 8-limb schoolbook product, all 16 partial products (R150). -/
def mul512 (x y : U256) : U512 :=
  BitVec.ofNat 512 (productRow x y .l0 + productRow x y .l1 + productRow x y .l2 + productRow x y .l3)

/-- `sqr512(x)`: the four squares once and the six cross products doubled (R151). -/
def sqr512 (x : U256) : U512 :=
  BitVec.ofNat 512
    (partialProduct x x .l0 .l0 + partialProduct x x .l1 .l1 + partialProduct x x .l2 .l2 + partialProduct x x .l3 .l3
      + 2 * (partialProduct x x .l0 .l1 + partialProduct x x .l0 .l2 + partialProduct x x .l0 .l3
        + partialProduct x x .l1 .l2 + partialProduct x x .l1 .l3 + partialProduct x x .l2 .l3))

end Sys2Proof.Machine
end

