-- ==== Sys2Proof/Machine/Rom.lean ====
section
/-! DEFINITION. The constant ROM (10_state.md R30 to R37): never written, no state. -/

namespace Sys2Proof.Machine

/-- `C.ZERO` (R34). -/
def romZero : U256 := 0#256

/-- `C.ONE` (R34). -/
def romOne : U256 := 1#256

/-- `C.P`, the modulus (R30). -/
def romP : U256 := 0x30644e72e131a029b85045b68181585d2833e84879b9709143e1f593f0000001#256

/-- `C.MU`, the Barrett constant `floor(2^508 / P)` (R31). -/
def romMu : U256 := 0x54a47462623a04a7ab074a58680730147144852009e880ae620703a6be1de925#256

/-- `C.PI`, the Montgomery constant `(-P^{-1}) mod 2^256` (R32). -/
def romPi : U256 := 0x73f82f1d0d8341b2e39a9828990623916586864b4c6911b3c2e1f593efffffff#256

/-- `C.R2`, the Montgomery entry constant `2^512 mod P` (R33, 90_conflicts.md C1). -/
def romR2 : U256 := 0x0216d0b17f4e44a58c49833d53bb808553fe3ab1e35c59e31bb8e645ae216da7#256

/-- The modulus as the integer the rules write `P`. -/
def modulus : Nat := romP.toNat

/-- The constant a selector of `FLDC` names; selectors 6 to 15 name none (R37). -/
def romConst (c : BitVec 4) : Option U256 :=
  match c.toNat with
  | 0 => some romZero
  | 1 => some romOne
  | 2 => some romP
  | 3 => some romMu
  | 4 => some romPi
  | 5 => some romR2
  | _ => none

end Sys2Proof.Machine
end

