-- ==== Sys2Proof/Machine/State.lean ====
section
/-! DEFINITION. The state of the FAU as plain data (10_state.md), what stands at its host port, and the state right
after reset (R50, 70_reset_and_hazards.md R260). -/

namespace Sys2Proof.Machine

/-- Which limbs of a field register hold a value written since the last reset (R51, 20_memory.md R67). -/
structure LimbMarks where
  l0 : Bool
  l1 : Bool
  l2 : Bool
  l3 : Bool
deriving DecidableEq, Repr

/-- A field register: its 256 bits, and which of its limbs have been written since reset. The spec keeps no range or
domain tag with a register (R23); the marks are R50's and R51's *written* and *unwritten*. A limb that is not
written carries no value: no read shows its bits. -/
structure Cell where
  value : U256
  marks : LimbMarks
deriving DecidableEq, Repr

/-- A register right after reset: no limb is written (R50). The bits are the model's named value 0, DESIGN CHOICE
(notes/assumptions/1.md). -/
def Cell.unwritten : Cell := { value := 0#256, marks := { l0 := false, l1 := false, l2 := false, l3 := false } }

/-- The field registers `f0` to `f7` (R21). -/
structure RegFile where
  f0 : Cell
  f1 : Cell
  f2 : Cell
  f3 : Cell
  f4 : Cell
  f5 : Cell
  f6 : Cell
  f7 : Cell
deriving DecidableEq, Repr

/-- The four flag bits of `FLAGS` (R26); its bits 63:4 always read as zero and are no state. -/
structure FlagBits where
  ovf : Bool
  eq  : Bool
  cry : Bool
  brw : Bool
deriving DecidableEq, Repr

/-- A host access of `size` bytes at a byte address of the host's address space (00_scope.md R14). `value` is the
datum of an 8-byte write; no access of another size reaches a register (20_memory.md R65). -/
inductive HostAccess where
  | read (addr size : Nat)
  | write (addr size : Nat) (value : U64)
deriving DecidableEq, Repr

/-- A step some agent takes, or is given the turn to take (20_memory.md R75, 00_scope.md R11). -/
inductive Event where
  /-- the host makes an access -/
  | host (a : HostAccess)
  /-- the engine has the turn: its completion step or draw step, if one is enabled -/
  | engine
  /-- the entropy source makes one more word available (45_sampling.md R210) -/
  | entropy (w : U64)
  /-- the platform asserts the hard reset input (70_reset_and_hazards.md R260) -/
  | assertReset
  /-- the platform releases the hard reset input -/
  | releaseReset
deriving DecidableEq, Repr

/-- What the port answers to an access that it accepts: the data of a read, or the end of a write. -/
inductive Reply where
  | data (w : U64)
  | done
deriving DecidableEq, Repr

/-- Why an access gets `BusError`, in the order of the tests (60_exceptions.md R240): its size, its alignment
(20_memory.md R65), or an offset that is not mapped (R70). -/
inductive BusErrorKind where
  | size | alignment | unmapped
deriving DecidableEq, Repr

/-- The reasons for which the machine stops. The faults of the spec are recorded in `STATUS` and stop nothing
(60_exceptions.md R233); none of them is here. -/
inductive Fault where
  /-- Raised by the engine's turn where `BUSY = 1` and `CMDLATCH` holds no legal command. No accept step leads there
  (30_encoding.md R99), so no run reaches it. Safe (notes/assumptions/16.md). -/
  | illegalLatch
deriving DecidableEq, Repr

/-- The reasons for which the model rejects what it is given. -/
inductive Refusal where
  /-- Raised by an arm of `exec` that has no meaning yet. Safe. -/
  | notModelled (mnemonic : String)
  /-- Raised by a host access that gets `BusError`: "a model of the FAU alone should treat a host program that causes
  one as *refused*" (20_memory.md R71). Safe (notes/assumptions/8.md). -/
  | busError (kind : BusErrorKind)
  /-- Raised by a host access that does not lie in the window: it is not an access to the FAU (20_memory.md R60, R61).
  Safe (notes/assumptions/9.md). -/
  | outsideWindow
  /-- Raised by a host access while the hard reset input is asserted: "accesses get no defined answer"
  (70_reset_and_hazards.md R260; 93_implementation_defined.md U13 says to refuse). Safe (notes/assumptions/13.md). -/
  | accessUnderReset
  /-- Raised by the meaning of an `FLDC` whose selector is 6 to 15, which the decoder never gives: such a word "never
  reaches completion" (46_move_system.md R222). Safe (notes/assumptions/18.md). -/
  | reservedSelector
deriving DecidableEq, Repr

/-- Everything the spec gives the machine, and the model's own record of what stands at its port. -/
structure State where
  /-- the field registers `f0` to `f7` (R21) with their written marks (R51) -/
  regs : RegFile
  /-- the flag bits of `FLAGS` (R26) -/
  flags : FlagBits
  /-- `STATUS.BUSY`: the phase (R40) -/
  busy : Bool
  /-- `STATUS.FAULT`: sticky (R40) -/
  fault : Bool
  /-- `STATUS.CAUSE`: the code of the first fault since reset (R40, 60_exceptions.md R231) -/
  cause : BitVec 4
  /-- `CMDLATCH`: the accepted command word, meaningful only while `BUSY = 1` (R47) -/
  cmdLatch : CmdWord
  /-- the entropy words available and not yet consumed, oldest first (45_sampling.md R210) -/
  entropy : List U64
  /-- how many words of `ENTROPY` have been consumed (R49) -/
  entropyPos : Nat
  /-- whether the hard reset input is asserted (70_reset_and_hazards.md R260) -/
  resetHeld : Bool
  /-- the parameter `BASE` as the number of its `0x200`-byte block (20_memory.md R60); no step changes it -/
  baseBlock : Nat
  /-- the model's own: the order of the agents' next steps (20_memory.md R75, notes/assumptions/6.md) -/
  agenda : List Event
  /-- the model's own: what the port has answered, newest first (notes/assumptions/17.md) -/
  replies : List Reply
  /-- the model's own: how many `draw(T)` values have been taken (00_scope.md R14, notes/assumptions/3.md) -/
  draws : Nat
deriving DecidableEq, Repr

/-- The machine right after reset (R50): IDLE, no fault, all flags 0, every field register unwritten. The rest are
named values, each a DESIGN CHOICE: the bits of the registers (notes/assumptions/1.md), the latch (2.md), no entropy
word available or consumed yet (11.md), `BASE` in block 0 (10.md), an empty agenda and reply record (6.md, 17.md) and
no draw taken (3.md). The hard reset input is released (13.md). -/
def State.reset : State where
  regs :=
    { f0 := Cell.unwritten, f1 := Cell.unwritten, f2 := Cell.unwritten, f3 := Cell.unwritten,
      f4 := Cell.unwritten, f5 := Cell.unwritten, f6 := Cell.unwritten, f7 := Cell.unwritten }
  flags := { ovf := false, eq := false, cry := false, brw := false }
  busy := false
  fault := false
  cause := 0#4
  cmdLatch := 0#32
  entropy := []
  entropyPos := 0
  resetHeld := false
  baseBlock := 0
  agenda := []
  replies := []
  draws := 0

end Sys2Proof.Machine
end

