-- ==== Sys2Proof/Machine/Flags.lean ====
section
/-! DEFINITION. The tests behind the flags (40_fixups.md R125, R129, R123), the `FLAGS` bits (10_state.md R26, R27)
and the two read-only words `FLAGS` (R26) and `STATUS` (R40). -/

namespace Sys2Proof.Machine

/-- `GeP(x)`, the source's `checkOverflow`: true iff `x >= P` (R125). Any mechanism that gives this bit conforms. -/
def geP (x : U256) : Bool := decide (modulus ≤ x.toNat)

/-- Limb-wise equality ANDed across all limbs (R129). -/
def eqLimbs (x y : U256) : Bool :=
  (limb x .l0 == limb y .l0) && (limb x .l1 == limb y .l1) && (limb x .l2 == limb y .l2) && (limb x .l3 == limb y .l3)

/-- The carry out of bit 255 of a wide add (R26, R123). -/
def carryOut (x y : U256) : Bool := (add256 x y).2

/-- The borrow out of bit 255 of a wide subtract (R26, R123). -/
def borrowOut (x y : U256) : Bool := (sub256 x y).2

/-- One flag of `FLAGS` (R26). -/
def FlagBits.get (f : FlagBits) : Flag → Bool
  | .ovf => f.ovf
  | .eq => f.eq
  | .cry => f.cry
  | .brw => f.brw

/-- `FLAGS` with one bit written and no other changed (R27). -/
def FlagBits.put (f : FlagBits) (k : Flag) (b : Bool) : FlagBits :=
  match k with
  | .ovf => { f with ovf := b }
  | .eq => { f with eq := b }
  | .cry => { f with cry := b }
  | .brw => { f with brw := b }

/-- What a read of `FLAGS` returns: `OVF`, `EQ`, `CRY`, `BRW` in bits 0 to 3, bits 63:4 zero (R26). -/
def flagsWord (f : FlagBits) : U64 :=
  0#60 ++ BitVec.ofBool f.brw ++ BitVec.ofBool f.cry ++ BitVec.ofBool f.eq ++ BitVec.ofBool f.ovf

/-- What a read of `STATUS` returns: `BUSY` bit 0, `FAULT` bit 1, `CAUSE` bits 7:4, the rest zero (R40). -/
def statusWord (s : State) : U64 :=
  0#56 ++ s.cause ++ 0#2 ++ BitVec.ofBool s.fault ++ BitVec.ofBool s.busy

/-- The code of a cause (60_exceptions.md R231). -/
def causeCode : Cause → BitVec 4
  | .illegalOpcode => 1#4
  | .illegalOperand => 2#4
  | .cmdHigh => 3#4
  | .busyViolation => 4#4

end Sys2Proof.Machine
end

