-- ==== Sys2Proof/Machine/Ops.lean ====
section
/-! DEFINITION. The named operations over the registers, the flags, the draw counter, the latch and the entropy
stream, the recording of a fault (60_exceptions.md R233) and, beside it, the reset that alone ends it (R226, R260). -/

namespace Sys2Proof.Machine

/-! ## Written marks (10_state.md R51) -/

/-- Whether limb `j` has been written. -/
def LimbMarks.get (m : LimbMarks) : LimbIx → Bool
  | .l0 => m.l0
  | .l1 => m.l1
  | .l2 => m.l2
  | .l3 => m.l3

/-- The marks after a write of limb `j`. -/
def LimbMarks.mark (m : LimbMarks) (j : LimbIx) : LimbMarks :=
  match j with
  | .l0 => { m with l0 := true }
  | .l1 => { m with l1 := true }
  | .l2 => { m with l2 := true }
  | .l3 => { m with l3 := true }

/-- A register is *written* when all four of its limbs are (R51). -/
def LimbMarks.all (m : LimbMarks) : Bool := m.l0 && m.l1 && m.l2 && m.l3

/-- A register that a command has written: all 256 bits at once (R51). -/
def Cell.written (v : U256) : Cell := { value := v, marks := { l0 := true, l1 := true, l2 := true, l3 := true } }

/-- The value of a written register; an unwritten one carries none (R50, 93_implementation_defined.md U1). -/
def Cell.value? (c : Cell) : Option U256 := if c.marks.all then some c.value else none

/-- The value of limb `j`, where it has been written (R66, R67). -/
def Cell.limb? (c : Cell) (j : LimbIx) : Option U64 := if c.marks.get j then some (limb c.value j) else none

/-- A host write of limb `j` (R66): that limb only, which is written from now on (R51). -/
def Cell.putLimb (c : Cell) (j : LimbIx) (w : U64) : Cell := { value := setLimb c.value j w, marks := c.marks.mark j }

/-! ## The register file (10_state.md R21, R22) -/

/-- Register `fi`. -/
def RegFile.get (r : RegFile) : FReg → Cell
  | .f0 => r.f0
  | .f1 => r.f1
  | .f2 => r.f2
  | .f3 => r.f3
  | .f4 => r.f4
  | .f5 => r.f5
  | .f6 => r.f6
  | .f7 => r.f7

/-- The register file with `fi` replaced. -/
def RegFile.put (r : RegFile) (i : FReg) (c : Cell) : RegFile :=
  match i with
  | .f0 => { r with f0 := c }
  | .f1 => { r with f1 := c }
  | .f2 => { r with f2 := c }
  | .f3 => { r with f3 := c }
  | .f4 => { r with f4 := c }
  | .f5 => { r with f5 := c }
  | .f6 => { r with f6 := c }
  | .f7 => { r with f7 := c }

/-- The cell of `fi`. -/
def State.cell (s : State) (i : FReg) : Cell := s.regs.get i

/-- The state with the cell of `fi` replaced and nothing else changed. -/
def State.putCell (s : State) (i : FReg) (c : Cell) : State := { s with regs := s.regs.put i c }

/-- `f[i] <- v`: a command's write of all 256 bits (00_scope.md R14, R51). -/
def State.writeReg (s : State) (i : FReg) (v : U256) : State := s.putCell i (Cell.written v)

/-- `fi` becomes unwritten: the destination of a command whose source was unwritten (U1). -/
def State.unwriteReg (s : State) (i : FReg) : State := s.putCell i Cell.unwritten

/-! ## The flags, the draw counter, the phase, the latch, the entropy stream -/

/-- `FLAGS.X <- b` (10_state.md R27). -/
def State.writeFlag (s : State) (k : Flag) (b : Bool) : State := { s with flags := s.flags.put k b }

/-- One `draw(T)` has been taken, so that the next is a fresh one (00_scope.md R14). -/
def State.countDraw (s : State) : State := { s with draws := s.draws + 1 }

/-- `STATUS.BUSY <- 0`: the end of a completion step (30_encoding.md R100). -/
def State.toIdle (s : State) : State := { s with busy := false }

/-- `CMDLATCH <- w ; STATUS.BUSY <- 1`: the effect of an accepted command (30_encoding.md R99). -/
def State.latchCommand (s : State) (w : CmdWord) : State := { s with cmdLatch := w, busy := true }

/-- Four times `EntropyNext()`: the stream goes on with `rest` and the position advances by four (45_sampling.md R213,
10_state.md R49). -/
def State.consumeFour (s : State) (rest : List U64) : State := { s with entropy := rest, entropyPos := s.entropyPos + 4 }

/-- One more entropy word becomes available, after those already there (45_sampling.md R210). -/
def State.supplyEntropy (s : State) (w : U64) : State := { s with entropy := s.entropy ++ [w] }

/-- The port's answer to an access is recorded. -/
def State.record (s : State) (r : Reply) : State := { s with replies := r :: s.replies }

/-! ## Faults and resets -/

/-- `raise Fault(c)`: the first fault since reset sets `FAULT` and `CAUSE`; a later one changes nothing; no register,
flag, latch or phase changes and no control is transferred (60_exceptions.md R233). -/
def State.raiseFault (s : State) (c : Cause) : State :=
  if s.fault then s else { s with fault := true, cause := causeCode c }

/-- The reset state of 10_state.md R50, reached from any state by the soft reset (46_move_system.md R226) or the hard
reset (70_reset_and_hazards.md R260): everything as in `State.reset` but the entropy stream and its position, which no
reset touches (R49), the platform's inputs and parameter, and the model's own records. There is no trap return
(60_exceptions.md R235): this is the only exit from a recorded fault (R234). -/
def State.toReset (s : State) : State :=
  { State.reset with
    entropy := s.entropy
    entropyPos := s.entropyPos
    resetHeld := s.resetHeld
    baseBlock := s.baseBlock
    agenda := s.agenda
    replies := s.replies
    draws := s.draws }

/-- The hard reset input is asserted: the reset state, held (70_reset_and_hazards.md R260). -/
def State.assertReset (s : State) : State := { s.toReset with resetHeld := true }

/-- The hard reset input is released. -/
def State.releaseReset (s : State) : State := { s with resetHeld := false }

end Sys2Proof.Machine
end

