-- ==== Sys2Proof/Machine/Operands.lean ====
section
/-! DEFINITION. How a command reads its sources and writes its result: the operand order of 30_encoding.md R95, the
range precondition of the modular commands (00_scope.md R17 *in-domain*), and what an unwritten source does to the
result (93_implementation_defined.md U1). -/

namespace Sys2Proof.Machine

/-- A whole 256-bit source register, read before anything is written (R95); `none` where it is unwritten (U1). -/
def State.source (s : State) (i : FReg) : Option U256 := (s.cell i).value?

/-- A canonical value is in `[0, P)` (00_scope.md R16). -/
def canonical (x : U256) : Bool := decide (x.toNat < modulus)

/-- What a command gives its destination register. -/
inductive FieldResult where
  /-- the value the rule computes -/
  | value (v : U256)
  /-- `draw(U256)`: an operand was out of domain (U2) -/
  | draw
  /-- a source was unwritten, and so is the result (U1) -/
  | unwritten
deriving DecidableEq, Repr

/-- `f[rd] <- ...` for the result of a command. -/
def State.writeResult (s : State) (rd : FReg) (r : FieldResult) : State :=
  match r with
  | .value v => s.writeReg rd v
  | .draw => (s.writeReg rd (Config.drawU256 s.draws)).countDraw
  | .unwritten => s.unwriteReg rd

/-- `FLAGS.X <- ...` for a bit computed from the sources; `none`, a bit computed from an unwritten source, is
`draw(U1)` (U1). -/
def State.writeFlagResult (s : State) (k : Flag) (b : Option Bool) : State :=
  match b with
  | some b => s.writeFlag k b
  | none => (s.writeFlag k (Config.drawU1 s.draws)).countDraw

/-- A bit of one source, where it is written. -/
def testOne (f : U256 → Bool) (x : Option U256) : Option Bool :=
  match x with
  | some x => some (f x)
  | none => none

/-- A bit of two sources, where both are written. -/
def testTwo (f : U256 → U256 → Bool) (x y : Option U256) : Option Bool :=
  match x, y with
  | some x, some y => some (f x y)
  | _, _ => none

/-- A command total on every 256-bit value of one source (70_reset_and_hazards.md R270). -/
def totalOne (f : U256 → U256) (x : Option U256) : FieldResult :=
  match x with
  | some x => .value (f x)
  | none => .unwritten

/-- A command total on every 256-bit value of two sources (R270). -/
def totalTwo (f : U256 → U256 → U256) (x y : Option U256) : FieldResult :=
  match x, y with
  | some x, some y => .value (f x y)
  | _, _ => .unwritten

/-- A modular command of one source: out of domain where `x >= P` (R143, R157, R180, R199). -/
def modularOne (f : U256 → U256) (x : Option U256) : FieldResult :=
  match x with
  | some x => if canonical x then .value (f x) else .draw
  | none => .unwritten

/-- A modular command of two sources: out of domain where either is `>= P` (R143, R157, R180). -/
def modularTwo (f : U256 → U256 → U256) (x y : Option U256) : FieldResult :=
  match x, y with
  | some x, some y => if canonical x && canonical y then .value (f x y) else .draw
  | _, _ => .unwritten

/-- A modular command whose second source may be any 256-bit value: `POW`, where only the base has a domain
(44_exp_inv.md R191, R192). -/
def modularBase (f : U256 → U256 → U256) (b e : Option U256) : FieldResult :=
  match b, e with
  | some b, some e => if canonical b then .value (f b e) else .draw
  | _, _ => .unwritten

/-- The completion step of a command that writes a register: its result and `BUSY <- 0` in one step (R100). -/
def State.completeReg (s : State) (rd : FReg) (r : FieldResult) : State := (s.writeResult rd r).toIdle

/-- The completion step of a command that writes one flag (R27, R100). -/
def State.completeFlag (s : State) (k : Flag) (b : Option Bool) : State := (s.writeFlagResult k b).toIdle

/-- The completion step of a command that writes a register and one flag (R130, R131). -/
def State.completeRegFlag (s : State) (rd : FReg) (r : FieldResult) (k : Flag) (b : Option Bool) : State :=
  ((s.writeResult rd r).writeFlagResult k b).toIdle

end Sys2Proof.Machine
end

