-- ==== Sys2Proof/Machine/Bus.lean ====
section
/-! DEFINITION. The register window and the host's accesses to it (20_memory.md R60 to R72), the accept step
(30_encoding.md R99) and the soft reset (46_move_system.md R226). -/

namespace Sys2Proof.Machine

/-- What stands at a mapped offset of the window (R64). -/
inductive WindowReg where
  | cmd | status | flags | ctrl
  | limb (i : FReg) (j : LimbIx)
deriving DecidableEq, Repr

/-- The window is `0x200` bytes (R60). -/
def windowSize : Nat := 0x200

/-- `BASE`, a multiple of `0x200` (R60). -/
def State.base (s : State) : Nat := windowSize * s.baseBlock

/-- Register `fi` by its number (R21). -/
def regAtIndex (i : Nat) : Option FReg := [FReg.f0, .f1, .f2, .f3, .f4, .f5, .f6, .f7][i]?

/-- Limb `j` by its number (00_scope.md R13). -/
def limbAtIndex (j : Nat) : Option LimbIx := [LimbIx.l0, .l1, .l2, .l3][j]?

/-- The limb at an aligned offset of `0x100` and above: `0x100 + 32*i + 8*j` (R64). -/
def limbAt (off : Nat) : Option WindowReg :=
  match regAtIndex ((off - 0x100) / 32), limbAtIndex ((off - 0x100) % 32 / 8) with
  | some i, some j => some (.limb i j)
  | _, _ => none

/-- The map of the window at an aligned offset; `none` is unmapped (R64, R70). -/
def windowReg (off : Nat) : Option WindowReg :=
  if off = 0x000 then some .cmd
  else if off = 0x008 then some .status
  else if off = 0x010 then some .flags
  else if off = 0x018 then some .ctrl
  else if off < 0x100 then none
  else limbAt off

/-- The offset of a window register (R64). -/
def windowOffset : WindowReg → Nat
  | .cmd => 0x000
  | .status => 0x008
  | .flags => 0x010
  | .ctrl => 0x018
  | .limb i j => 0x100 + 32 * i.code.toNat + 8 * limbIndex j

/-- The definite value of the 64-bit word at a window register, where a read has one: `CMD` and `CTRL` read 0 (R69),
and a limb reads as itself in phase IDLE (R66) once it has been written (R67). -/
def windowWord (s : State) : WindowReg → Option U64
  | .cmd => some 0#64
  | .status => some (statusWord s)
  | .flags => some (flagsWord s.flags)
  | .ctrl => some 0#64
  | .limb i j => if s.busy then none else (s.cell i).limb? j

/-- The byte the window shows at an offset: byte `o + k` of the word at aligned offset `o` is its bits `8k+7 : 8k`
(R62). -/
def windowByte (s : State) (off : Nat) : Option Byte :=
  match windowReg (off - off % 8) with
  | some r => (windowWord s r).map (fun w => byteOf w (off % 8))
  | none => none

/-- The accept step: a write of `w` to `CMD` (30_encoding.md R99). -/
def State.acceptCommand (s : State) (w : U64) : State :=
  if s.fault then s
  else if s.busy then s.raiseFault .busyViolation
  else
    match decode w with
    | .illegal c => s.raiseFault c
    | .legal _ => s.latchCommand (w.setWidth 32)

/-- A write of `w` to `CTRL`: with bit 0 set the soft reset, in any phase and whatever `FAULT` is; with bit 0 clear
nothing (10_state.md R42, 46_move_system.md R226). -/
def State.writeCtrl (s : State) (w : U64) : State := if w.getLsbD 0 then s.toReset else s

/-- A write of `w` to limb `j` of `fi`: in phase IDLE that limb alone (R66); in phase BUSY dropped, with
`BUSY_VIOLATION` (R72). -/
def State.writeLimb (s : State) (i : FReg) (j : LimbIx) (w : U64) : State :=
  if s.busy then s.raiseFault .busyViolation else s.putCell i ((s.cell i).putLimb j w)

/-- The effect of a well-formed write (R64); `STATUS` and `FLAGS` ignore it (R69). -/
def State.busWrite (s : State) (r : WindowReg) (w : U64) : State :=
  match r with
  | .cmd => s.acceptCommand w
  | .status => s
  | .flags => s
  | .ctrl => s.writeCtrl w
  | .limb i j => s.writeLimb i j w

/-- The data a well-formed read returns: the definite value, or `draw(U64)` (R50, R72). -/
def readData (s : State) (r : WindowReg) : U64 :=
  match windowWord s r with
  | some w => w
  | none => Config.drawU64 s.draws

/-- The fault a read records: `BUSY_VIOLATION` for a limb in phase BUSY (R72); every other read is legal. -/
def State.readFault (s : State) (r : WindowReg) : State :=
  match r with
  | .limb _ _ => if s.busy then s.raiseFault .busyViolation else s
  | _ => s

/-- The state after a well-formed read: no change (R68) but the fault of R72 and the number of draws taken. -/
def State.afterRead (s : State) (r : WindowReg) : State :=
  match windowWord s r with
  | some _ => s.readFault r
  | none => (s.readFault r).countDraw

/-- What becomes of a host access. -/
inductive AccessResult where
  /-- the port answers and the FAU is in the given state -/
  | answered (r : Reply) (s : State)
  /-- `BusError`: no data, not performed, no FAU state changes (R71) -/
  | busError (k : BusErrorKind)
  /-- not an access to the window (R60, R61) -/
  | outside
deriving DecidableEq, Repr

/-- The byte address of an access. -/
def HostAccess.addr : HostAccess → Nat
  | .read a _ => a
  | .write a _ _ => a

/-- The size of an access in bytes. -/
def HostAccess.size : HostAccess → Nat
  | .read _ n => n
  | .write _ n _ => n

/-- A well-formed access at a mapped register. -/
def State.perform (s : State) (a : HostAccess) (r : WindowReg) : AccessResult :=
  match a with
  | .read _ _ => .answered (.data (readData s r)) (s.afterRead r)
  | .write _ _ w => .answered .done (s.busWrite r w)

/-- A host access, checked in the order of R61 and 60_exceptions.md R240: does it lie in the window, then size, then
alignment, then mapping; then the register's rule, which makes the phase test. -/
def State.busAccess (s : State) (a : HostAccess) : AccessResult :=
  if a.addr < s.base ∨ s.base + windowSize < a.addr + a.size then .outside
  else if a.size ≠ 8 then .busError .size
  else if (a.addr - s.base) % 8 ≠ 0 then .busError .alignment
  else
    match windowReg (a.addr - s.base) with
    | none => .busError .unmapped
    | some r => s.perform a r

/-- The step of a host access (R75). A `BusError`, an access that is not the FAU's and an access under reset make the
model reject the host program (R71, R60, 70_reset_and_hazards.md R260). -/
def hostStep (a : HostAccess) (s : State) : Host.Outcome State Fault Refusal :=
  if s.resetHeld then .refused .accessUnderReset
  else
    match s.busAccess a with
    | .answered r s' => .next (s'.record r)
    | .busError k => .refused (.busError k)
    | .outside => .refused .outsideWindow

/-! ## Host macros (30_encoding.md R115) as sequences of steps -/

/-- `ISSUE cmd`. -/
def hostIssue (s : State) (i : Instr) : List Event := [.host (.write s.base 8 (commandValue i))]

/-- `DO cmd` on a command that completes in one engine step: issue, the completion, and the poll that sees it. -/
def hostDo (s : State) (i : Instr) : List Event :=
  hostIssue s i ++ [.engine, .host (.read (s.base + 0x008) 8)]

/-- `LOAD fi, v`. -/
def hostLoad (s : State) (i : FReg) (v : U256) : List Event :=
  [LimbIx.l0, .l1, .l2, .l3].map (fun j => .host (.write (s.base + windowOffset (.limb i j)) 8 (limb v j)))

/-- `READ fi`. -/
def hostRead (s : State) (i : FReg) : List Event :=
  [LimbIx.l0, .l1, .l2, .l3].map (fun j => .host (.read (s.base + windowOffset (.limb i j)) 8))

/-- `RDFLAGS`. -/
def hostRdflags (s : State) : List Event := [.host (.read (s.base + 0x010) 8)]

/-- `RDSTATUS`. -/
def hostRdstatus (s : State) : List Event := [.host (.read (s.base + 0x008) 8)]

/-- `SRST`. -/
def hostSrst (s : State) : List Event := [.host (.write (s.base + 0x018) 8 1#64)]

end Sys2Proof.Machine
end

