-- ==== Sys2Proof/Machine/Fixups.lean ====
section
/-! DEFINITION. The fixup functions (40_fixups.md R132 to R134) and the commands `CHKOVF`, `FIXOVF`, `FIXUNF`, `FEQ`,
`WADD`, `WSUB` (R126 to R131). -/

namespace Sys2Proof.Machine

/-- `mask64(b)`: all ones or all zeros (R132). -/
def mask64 (b : Bool) : U64 := if b then BitVec.allOnes 64 else 0#64

/-- `maskP(b)`: `C.P` with every limb ANDed with `mask64(b)` (R132). -/
def maskP (b : Bool) : U256 :=
  ofLimbs (limb romP .l0 &&& mask64 b) (limb romP .l1 &&& mask64 b)
    (limb romP .l2 &&& mask64 b) (limb romP .l3 &&& mask64 b)

/-- `fixOverflow(x)`: the masked subtraction of `P`, total on every pattern (R133, 90_conflicts.md C4). -/
def fixOverflow (x : U256) : U256 := (sub256 x (maskP (geP x))).1

/-- `fixUnderflow(x, b)`: the masked addition of `P`, its carry discarded (R134). -/
def fixUnderflow (x : U256) (b : Bool) : U256 := (add256 x (maskP b)).1

/-- The sum a wide add writes (R130). -/
def wideSum (x y : U256) : U256 := (add256 x y).1

/-- The difference a wide subtract writes (R131). -/
def wideDiff (x y : U256) : U256 := (sub256 x y).1

/-- `CHKOVF fs`: `FLAGS.OVF <- GeP(f[rs1])` (R126). -/
def execChkovf (rs : FReg) (s : State) : Host.Outcome State Fault Refusal :=
  .next (s.completeFlag .ovf (testOne geP (s.source rs)))

/-- `FIXOVF fd, fs`: `f[rd] <- fixOverflow(f[rs1])` (R127). -/
def execFixovf (rd rs : FReg) (s : State) : Host.Outcome State Fault Refusal :=
  .next (s.completeReg rd (totalOne fixOverflow (s.source rs)))

/-- `FIXUNF fd, fs`: `f[rd] <- fixUnderflow(f[rs1], FLAGS.BRW)`, and `BRW` keeps its value (R128). -/
def execFixunf (rd rs : FReg) (s : State) : Host.Outcome State Fault Refusal :=
  .next (s.completeReg rd (totalOne (fun x => fixUnderflow x s.flags.brw) (s.source rs)))

/-- `FEQ fs1, fs2`: `FLAGS.EQ <- 1` iff the two patterns are equal (R129). -/
def execFeq (rs1 rs2 : FReg) (s : State) : Host.Outcome State Fault Refusal :=
  .next (s.completeFlag .eq (testTwo eqLimbs (s.source rs1) (s.source rs2)))

/-- `WADD fd, fs1, fs2`: `f[rd] <- s ; FLAGS.CRY <- c` (R130). -/
def execWadd (rd rs1 rs2 : FReg) (s : State) : Host.Outcome State Fault Refusal :=
  .next (s.completeRegFlag rd (totalTwo wideSum (s.source rs1) (s.source rs2))
    .cry (testTwo carryOut (s.source rs1) (s.source rs2)))

/-- `WSUB fd, fs1, fs2`: `f[rd] <- d ; FLAGS.BRW <- b` (R131). -/
def execWsub (rd rs1 rs2 : FReg) (s : State) : Host.Outcome State Fault Refusal :=
  .next (s.completeRegFlag rd (totalTwo wideDiff (s.source rs1) (s.source rs2))
    .brw (testTwo borrowOut (s.source rs1) (s.source rs2)))

end Sys2Proof.Machine
end

