-- ==== Sys2Proof/Machine/Additive.lean ====
section
/-! DEFINITION. Modular addition, subtraction and negation (41_additive.md R140 to R143). -/

namespace Sys2Proof.Machine

/-- The value of `FADD` on canonical operands: `fixOverflow` of the 256-bit sum (R140). -/
def fieldAdd (x y : U256) : U256 := fixOverflow (add256 x y).1

/-- The value of `FSUB` on canonical operands: `fixUnderflow` of the difference and its borrow (R141). -/
def fieldSub (x y : U256) : U256 :=
  let r := sub256 x y
  fixUnderflow r.1 r.2

/-- The value of `FNEG` on a canonical operand: the difference of 0 and the operand (R142). -/
def fieldNeg (x : U256) : U256 := fieldSub 0#256 x

/-- `FADD fd, fs1, fs2` (R140); out of domain: R143. -/
def execFadd (rd rs1 rs2 : FReg) (s : State) : Host.Outcome State Fault Refusal :=
  .next (s.completeReg rd (modularTwo fieldAdd (s.source rs1) (s.source rs2)))

/-- `FSUB fd, fs1, fs2` (R141); out of domain: R143. -/
def execFsub (rd rs1 rs2 : FReg) (s : State) : Host.Outcome State Fault Refusal :=
  .next (s.completeReg rd (modularTwo fieldSub (s.source rs1) (s.source rs2)))

/-- `FNEG fd, fs` (R142); out of domain: R143. -/
def execFneg (rd rs : FReg) (s : State) : Host.Outcome State Fault Refusal :=
  .next (s.completeReg rd (modularOne fieldNeg (s.source rs)))

end Sys2Proof.Machine
end

