-- ==== Sys2Proof/Machine/Barrett.lean ====
section
/-! DEFINITION. The Barrett engine (42_barrett.md R150 to R157) with the shifts of 90_conflicts.md C2 and full
precision (R155). -/

namespace Sys2Proof.Machine

/-- The quotient estimate `q = ((z >> 192) * MU) >> 316` (R152). -/
def barrettQuotient (z : U512) : Nat := ((z.toNat >>> 192) * romMu.toNat) >>> 316

/-- `r = (z - q * P) mod 2^256`, before the final fixup (R152). -/
def barrettRemainder (z : U512) : U256 :=
  BitVec.ofInt 256 ((z.toNat : Int) - (barrettQuotient z * modulus : Nat))

/-- `barrettReduce(z) = fixOverflow(r)` (R152). -/
def barrettReduce (z : U512) : U256 := fixOverflow (barrettRemainder z)

/-- `bmul(x, y) = barrettReduce(mul512(x, y))` (R156). -/
def bmul (x y : U256) : U256 := barrettReduce (mul512 x y)

/-- `bsqr(x) = barrettReduce(sqr512(x))` (R156). -/
def bsqr (x : U256) : U256 := barrettReduce (sqr512 x)

/-- `BMUL fd, fs1, fs2` (R153); out of domain: R157. -/
def execBmul (rd rs1 rs2 : FReg) (s : State) : Host.Outcome State Fault Refusal :=
  .next (s.completeReg rd (modularTwo bmul (s.source rs1) (s.source rs2)))

/-- `BSQR fd, fs` (R154); out of domain: R157. -/
def execBsqr (rd rs : FReg) (s : State) : Host.Outcome State Fault Refusal :=
  .next (s.completeReg rd (modularOne bsqr (s.source rs)))

end Sys2Proof.Machine
end

