-- ==== Sys2Proof/Machine/Montgomery.lean ====
section
/-! DEFINITION. The Montgomery engine on the CIOS schedule (43_montgomery.md R170 to R181). -/

namespace Sys2Proof.Machine

/-- `PI0 = C.PI mod 2^64`, the one limb of `PI` that the schedule uses (R171, 10_state.md R32). -/
def pi0 : Nat := (limb romPi .l0).toNat

/-- The accumulator after `t = t + limb(x, i) * y` (R171). -/
def ciosMac (y : U256) (xi : U64) (t : Nat) : Nat := t + xi.toNat * y.toNat

/-- `m = ((t mod 2^64) * PI0) mod 2^64` (R171). -/
def ciosFactor (t : Nat) : Nat := ((t % 2 ^ 64) * pi0) % 2 ^ 64

/-- `t = (t + m * C.P) >> 64`: the fold that shifts the accumulator down one limb (R171). -/
def ciosFold (t : Nat) : Nat := (t + ciosFactor t * modulus) >>> 64

/-- One iteration of the loop on limb `xi` of `x` (R171). -/
def ciosStep (y : U256) (t : Nat) (xi : U64) : Nat := ciosFold (ciosMac y xi t)

/-- The accumulator after the four iterations, from 0 (R171). -/
def ciosLoop (x y : U256) : Nat := [limb x .l0, limb x .l1, limb x .l2, limb x .l3].foldl (ciosStep y) 0

/-- `montMul(x, y) = fixOverflow(t)` (R171); for `x, y < P` the accumulator fits 256 bits here (R172). -/
def montMul (x y : U256) : U256 := fixOverflow (BitVec.ofNat 256 (ciosLoop x y))

/-- `montSqr(x)`: the same schedule for `x == y`; "its value is `montMul(x, x)`; the saving is not observable"
(R179). -/
def montSqr (x : U256) : U256 := montMul x x

/-- `intoMontgomery(x) = montgomeryMultiply(x, R2)` (R175). -/
def toMont (x : U256) : U256 := montMul x romR2

/-- `outOfMontgomery(x) = montgomeryMultiply(x, 1)` (R176). -/
def fromMont (x : U256) : U256 := montMul x romOne

/-- `MMUL fd, fs1, fs2` (R173); out of domain: R180. -/
def execMmul (rd rs1 rs2 : FReg) (s : State) : Host.Outcome State Fault Refusal :=
  .next (s.completeReg rd (modularTwo montMul (s.source rs1) (s.source rs2)))

/-- `MSQR fd, fs` (R174); out of domain: R180. -/
def execMsqr (rd rs : FReg) (s : State) : Host.Outcome State Fault Refusal :=
  .next (s.completeReg rd (modularOne montSqr (s.source rs)))

/-- `TOMONT fd, fs` (R175); out of domain: R180. -/
def execTomont (rd rs : FReg) (s : State) : Host.Outcome State Fault Refusal :=
  .next (s.completeReg rd (modularOne toMont (s.source rs)))

/-- `FROMMONT fd, fs` (R176); out of domain: R180. -/
def execFrommont (rd rs : FReg) (s : State) : Host.Outcome State Fault Refusal :=
  .next (s.completeReg rd (modularOne fromMont (s.source rs)))

end Sys2Proof.Machine
end

