-- ==== Sys2Proof/Machine/ExpInv.lean ====
section
/-! DEFINITION. Modular exponentiation on the Barrett engine (44_exp_inv.md R190 to R192) and inversion by the fixed
chain in Montgomery space (R196 to R200). Each is one completion step (R100). -/

namespace Sys2Proof.Machine

/-- The number of significant bits of `e`: 0 for 0, else the index of the top 1 bit, plus 1 (R190). -/
def significantBits (e : U256) : Nat := if e = 0#256 then 0 else Nat.log2 e.toNat + 1

/-- The body of the loop for exponent bit `i`: square, then multiply by the base where the bit is 1 (R190). -/
def powStep (b e : U256) (i : Nat) (acc : U256) : U256 :=
  let sq := bsqr acc
  if e.getLsbD i then bmul sq b else sq

/-- The loop over the bits `n-1` downto 0 (R190). -/
def powLoop (b e : U256) : Nat → U256 → U256
  | 0, acc => acc
  | n + 1, acc => powLoop b e n (powStep b e n acc)

/-- `powBarrett(b, e)`, the accumulator starting at 1 (R190). -/
def powBarrett (b e : U256) : U256 := powLoop b e (significantBits e) romOne

/-- `POW fd, fbase, fexp` (R191); base out of domain: R192. -/
def execPow (rd rs1 rs2 : FReg) (s : State) : Host.Outcome State Fault Refusal :=
  .next (s.completeReg rd (modularBase powBarrett (s.source rs1) (s.source rs2)))

/-- `n` further entries of the cache after the entry `prev`: each the product of the one before and `cache[1]`
(R197). -/
def cacheFrom (c1 : U256) : Nat → U256 → List U256
  | 0, _ => []
  | n + 1, prev => montMul prev c1 :: cacheFrom c1 n (montMul prev c1)

/-- `cache[1..15]`, first entry first: `cache[1] = xm`, `cache[2]` its Montgomery square, then the products (R197). -/
def invCache (xm : U256) : List U256 := xm :: montSqr xm :: cacheFrom xm 13 (montSqr xm)

/-- `cache[k]` for `k` in 1 to 15 (R197). -/
def cacheAt (cache : List U256) (k : Nat) : U256 := cache.getD (k - 1) 0#256

/-- The 64 hexadecimal digits `D` of `P - 2`, most significant first (R197). -/
def invDigits : List Nat :=
  [0x3, 0x0, 0x6, 0x4, 0x4, 0xe, 0x7, 0x2, 0xe, 0x1, 0x3, 0x1, 0xa, 0x0, 0x2, 0x9] ++
  [0xb, 0x8, 0x5, 0x0, 0x4, 0x5, 0xb, 0x6, 0x8, 0x1, 0x8, 0x1, 0x5, 0x8, 0x5, 0xd] ++
  [0x2, 0x8, 0x3, 0x3, 0xe, 0x8, 0x4, 0x8, 0x7, 0x9, 0xb, 0x9, 0x7, 0x0, 0x9, 0x1] ++
  [0x4, 0x3, 0xe, 0x1, 0xf, 0x5, 0x9, 0x3, 0xe, 0xf, 0xf, 0xf, 0xf, 0xf, 0xf, 0xf]

/-- One digit of the chain: `Square` four times, then `MultiplyByCache[d]` unless the digit is 0 (R197). -/
def invStep (cache : List U256) (acc : U256) (d : Nat) : U256 :=
  let sq := montSqr (montSqr (montSqr (montSqr acc)))
  if d = 0 then sq else montMul sq (cacheAt cache d)

/-- The chain in Montgomery space, from `cache[D[0]]` over the digits after the first (R197). -/
def invChain (xm : U256) : U256 :=
  invDigits.tail.foldl (invStep (invCache xm)) (cacheAt (invCache xm) (invDigits.headD 0))

/-- `invFermat(x)`, whose architectural definition is `x^(P-2) mod P` (R196), by the reference micro-program: convert
in, run the chain, convert out (R197, R200). -/
def invFermat (x : U256) : U256 := montMul (invChain (montMul x romR2)) romOne

/-- `INV fd, fs` (R198); out of domain: R199. -/
def execInv (rd rs : FReg) (s : State) : Host.Outcome State Fault Refusal :=
  .next (s.completeReg rd (modularOne invFermat (s.source rs)))

end Sys2Proof.Machine
end

