-- ==== Sys2Proof/Machine/Sampling.lean ====
section
/-! DEFINITION. The uniform field-element sampler (45_sampling.md R210 to R215). -/

namespace Sys2Proof.Machine

/-- The four passes of `fixOverflow` (R212). -/
def samplePasses (raw : U256) : U256 := fixOverflow (fixOverflow (fixOverflow (fixOverflow raw)))

/-- `sample(raw)`: the value accepted, or `none` for `Reject` (R212). -/
def sample (raw : U256) : Option U256 := if geP (samplePasses raw) then none else some (samplePasses raw)

/-- `raw` of one draw: the first word consumed is limb 0 (R211). -/
def drawRaw (w0 w1 w2 w3 : U64) : U256 := ofLimbs w0 w1 w2 w3

/-- The effect of a draw that `sample` accepts or rejects: accepted, the command completes; rejected, nothing else
changes and `BUSY` stays 1 (R213). -/
def State.settleDraw (s : State) (rd : FReg) (r : Option U256) : State :=
  match r with
  | some v => s.completeReg rd (.value v)
  | none => s

/-- `RAND fd`: one draw step (R213, R214). It is enabled only when four entropy words are available; until then
nothing changes and `BUSY` stays 1 (R215). -/
def execRand (rd : FReg) (s : State) : Host.Outcome State Fault Refusal :=
  match s.entropy with
  | w0 :: w1 :: w2 :: w3 :: rest => .next ((s.consumeFour rest).settleDraw rd (sample (drawRaw w0 w1 w2 w3)))
  | _ => .next s

end Sys2Proof.Machine
end

