-- ==== Sys2Proof/Machine/System.lean ====
section
/-! DEFINITION. `NOP`, `FMOV`, `FLDC` (46_move_system.md R220 to R222). The soft reset is a host access (R226),
Machine/Bus.lean. -/

namespace Sys2Proof.Machine

/-- `NOP`: the completion step clears `BUSY` and does nothing else (R220). -/
def execNop (s : State) : Host.Outcome State Fault Refusal := .next s.toIdle

/-- `FMOV fd, fs`: `f[rd] <- f[rs1]`, the pattern whatever it is; the copy of an unwritten register is unwritten and
`FMOV fd, fd` changes nothing, so the written marks go with the pattern (R221, 30_encoding.md R105,
notes/assumptions/4.md). -/
def execFmov (rd rs : FReg) (s : State) : Host.Outcome State Fault Refusal :=
  .next (s.putCell rd (s.cell rs)).toIdle

/-- `FLDC fd, #c`: `f[rd] <- CONST[c]` (R222). A selector of 6 or more never reaches completion. -/
def execFldc (rd : FReg) (c : BitVec 4) (s : State) : Host.Outcome State Fault Refusal :=
  match romConst c with
  | some v => .next (s.completeReg rd (.value v))
  | none => .refused .reservedSelector

end Sys2Proof.Machine
end

