-- ==== Sys2Proof/Machine/Dispatch.lean ====
section
/-! DEFINITION. The dispatch of `Exec(CMDLATCH)` (30_encoding.md R100): one arm for each command of R97. -/

namespace Sys2Proof.Machine

/-- The completion step of a command: the meaning of the rule that R97 names for it. -/
def exec (i : Instr) (s : State) : Host.Outcome State Fault Refusal :=
  match i with
  | .nop => Sys2Proof.Machine.execNop s
  | .fmov rd rs => Sys2Proof.Machine.execFmov rd rs s
  | .fldc rd c => Sys2Proof.Machine.execFldc rd c s
  | .chkovf rs => Sys2Proof.Machine.execChkovf rs s
  | .fixovf rd rs => Sys2Proof.Machine.execFixovf rd rs s
  | .fixunf rd rs => Sys2Proof.Machine.execFixunf rd rs s
  | .feq rs1 rs2 => Sys2Proof.Machine.execFeq rs1 rs2 s
  | .wadd rd rs1 rs2 => Sys2Proof.Machine.execWadd rd rs1 rs2 s
  | .wsub rd rs1 rs2 => Sys2Proof.Machine.execWsub rd rs1 rs2 s
  | .fadd rd rs1 rs2 => Sys2Proof.Machine.execFadd rd rs1 rs2 s
  | .fsub rd rs1 rs2 => Sys2Proof.Machine.execFsub rd rs1 rs2 s
  | .fneg rd rs => Sys2Proof.Machine.execFneg rd rs s
  | .bmul rd rs1 rs2 => Sys2Proof.Machine.execBmul rd rs1 rs2 s
  | .bsqr rd rs => Sys2Proof.Machine.execBsqr rd rs s
  | .mmul rd rs1 rs2 => Sys2Proof.Machine.execMmul rd rs1 rs2 s
  | .msqr rd rs => Sys2Proof.Machine.execMsqr rd rs s
  | .tomont rd rs => Sys2Proof.Machine.execTomont rd rs s
  | .frommont rd rs => Sys2Proof.Machine.execFrommont rd rs s
  | .pow rd rs1 rs2 => Sys2Proof.Machine.execPow rd rs1 rs2 s
  | .inv rd rs => Sys2Proof.Machine.execInv rd rs s
  | .rand rd => Sys2Proof.Machine.execRand rd s

end Sys2Proof.Machine
end

