-- ==== Sys2Proof/Machine/Engine.lean ====
section
/-! DEFINITION. The engine's step (30_encoding.md R100), the steps of all agents (20_memory.md R75), and how a command
comes to be latched for the next step. -/

namespace Sys2Proof.Machine

/-- The command in the latch. -/
def latchedCommand (w : CmdWord) : Option Instr := (decode (w.setWidth 64)).command?

/-- The engine's step: while `BUSY = 1`, whether or not `FAULT = 1`, the completion step (for `RAND` one draw step) of
the latched command; while `BUSY = 0` none is enabled (R100). -/
def engineStep (s : State) : Host.Outcome State Fault Refusal :=
  if s.busy && !s.resetHeld then
    match latchedCommand s.cmdLatch with
    | some i => exec i s
    | none => .fault .illegalLatch
  else .next s

/-- The step of an event (20_memory.md R75, 45_sampling.md R210, 70_reset_and_hazards.md R260). -/
def takeEvent (e : Event) (s : State) : Host.Outcome State Fault Refusal :=
  match e with
  | .host a => hostStep a s
  | .engine => engineStep s
  | .entropy w => .next (s.supplyEntropy w)
  | .assertReset => .next s.assertReset
  | .releaseReset => .next s.releaseReset

/-- The next step of the machine: the event at the head of the agenda; with no event left, the engine's turn, so that
an enabled completion step is always taken in the end (70_reset_and_hazards.md R276, notes/assumptions/6.md). -/
def nextStep (s : State) : Host.Outcome State Fault Refusal :=
  match s.agenda with
  | [] => engineStep s
  | e :: rest => takeEvent e { s with agenda := rest }

/-- An agenda whose next step is the engine's: the same one where that is so already. -/
def engineFirst (agenda : List Event) : List Event :=
  match agenda with
  | [] => []
  | .engine :: rest => .engine :: rest
  | e :: rest => .engine :: e :: rest

/-- The state in which the next step runs the command word `w`: accepted and latched (30_encoding.md R99), the hard
reset input released, and the engine's turn next (notes/assumptions/7.md). -/
def State.readyToRun (s : State) (w : CmdWord) : State :=
  { s with cmdLatch := w, busy := true, resetHeld := false, agenda := engineFirst s.agenda }

/-- The command word of a table word of `nbits` bits: the bits above `nbits` are zero (30_encoding.md R90). -/
def tableCommand (nbits w : Nat) : CmdWord := BitVec.ofNat 32 (w % 2 ^ nbits)

end Sys2Proof.Machine
end

