-- ==== Sys2Proof/Machine/Step.lean ====
section
/-! DEFINITION. The step function: one step of one agent (20_memory.md R75), and the state whose next step runs a
given command. -/

namespace Sys2Proof.Machine

/-- One step: the next state, a fault, or a refusal by name. -/
def step (s : State) : Host.Outcome State Fault Refusal := nextStep s

/-- `s` with the command word `w` accepted and latched, so that the very next step runs it (30_encoding.md R99, R100,
notes/assumptions/7.md). -/
def State.withFetchWord (s : State) (nbits w : Nat) : State := s.readyToRun (tableCommand nbits w)

end Sys2Proof.Machine
end

