-- ==== Sys2Proof/Safety.lean ====
section
/-! DEFINITION. What counts as a good state and a good run (60_exceptions.md R234), and the invariant of the machine,
in the terms the statements use. -/

namespace Sys2Proof.Machine

/-- "No run with a fault recorded is a good run" (60_exceptions.md R234). -/
def State.good (s : State) : Prop := s.fault = false

/-- `CAUSE` is 0 when `FAULT = 0`, and one of the codes 1 to 4 when `FAULT = 1` (10_state.md R40, 60_exceptions.md
R231). -/
def State.CauseLegal (s : State) : Prop :=
  (s.fault = false → s.cause = 0#4) ∧ (s.fault = true → 1 ≤ s.cause.toNat ∧ s.cause.toNat ≤ 4)

/-- While `BUSY = 1` the latch holds a legal command (30_encoding.md R99). -/
def State.LatchLegal (s : State) : Prop := s.busy = true → (latchedCommand s.cmdLatch).isSome = true

/-- While the hard reset input is asserted the FAU is in the reset state (70_reset_and_hazards.md R260). -/
def State.ResetHolds (s : State) : Prop := s.resetHeld = true → s.toReset = s

/-- The model's canonical form: the bits of a limb that is not written are 0, so that states which no read tells apart
by them are equal data (notes/assumptions/1.md). -/
def State.UnwrittenClear (s : State) : Prop :=
  ∀ (i : FReg) (j : LimbIx), (s.cell i).marks.get j = false → limb (s.cell i).value j = 0#64

/-- The invariant that every step of every agent keeps. -/
structure State.Inv (s : State) : Prop where
  causeLegal : s.CauseLegal
  latchLegal : s.LatchLegal
  resetHolds : s.ResetHolds
  unwrittenClear : s.UnwrittenClear

/-- A host write that is a soft reset (46_move_system.md R226): well formed, to `CTRL`, with bit 0 set. -/
def State.isSoftReset (s : State) (e : Event) : Bool :=
  match e with
  | .host (.write a n w) => (a == s.base + 0x018) && (n == 8) && w.getLsbD 0
  | _ => false

/-- The next step is a reset, soft or hard (70_reset_and_hazards.md R260). -/
def State.nextIsReset (s : State) : Bool :=
  match s.agenda with
  | [] => false
  | e :: _ => s.isSoftReset e || (e == .assertReset)

/-- The next step is the engine's turn. -/
def State.engineTurn (s : State) : Bool :=
  match s.agenda with
  | [] => true
  | e :: _ => e == .engine

/-- The next step accepts the value `w` as a command: a well-formed write of `w` to `CMD`, in phase IDLE with no fault
recorded, and `w` is legal (30_encoding.md R99). -/
def State.accepts (s : State) (w : U64) : Prop :=
  s.resetHeld = false ∧ s.fault = false ∧ s.busy = false ∧ (∃ i, decode w = .legal i) ∧
  ∃ rest, s.agenda = .host (.write s.base 8 w) :: rest

/-- The next step is an access for which the table of causes names `c` (60_exceptions.md R231): in phase IDLE a write
to `CMD` of a value that is illegal for that cause, in phase BUSY a write to `CMD` or a read or write of a limb. -/
def State.violates (s : State) (c : Cause) : Prop :=
  (s.busy = false ∧ ∃ w rest, s.agenda = .host (.write s.base 8 w) :: rest ∧ decode w = .illegal c) ∨
  (s.busy = true ∧ c = .busyViolation ∧ ∃ rest,
    (∃ w, s.agenda = .host (.write s.base 8 w) :: rest) ∨
    (∃ i j w, s.agenda = .host (.write (s.base + windowOffset (.limb i j)) 8 w) :: rest) ∨
    (∃ i j, s.agenda = .host (.read (s.base + windowOffset (.limb i j)) 8) :: rest))

/-- The reset state of 10_state.md R50 as its table gives it: no register and no limb carries a value, the flags,
`BUSY`, `FAULT` and `CAUSE` are 0. The rest of the table is unspecified or not touched by a reset. -/
def State.IsReset (s : State) : Prop :=
  (∀ r, s.source r = none) ∧ (∀ r j, (s.cell r).limb? j = none) ∧
  s.flags = { ovf := false, eq := false, cry := false, brw := false } ∧
  s.busy = false ∧ s.fault = false ∧ s.cause = 0#4

/-- `RINV = R^{-1} mod P` (10_state.md R35). -/
def rInv : Nat := 0x15ebf95182c5551cc8260de4aeb85d5d090ef5a9e111ec87dc5ba0056db1194e

/-- The register a command writes, if it writes one (30_encoding.md R96). -/
def destination : Instr → Option FReg
  | .nop => none
  | .fmov rd _ => some rd
  | .fldc rd _ => some rd
  | .chkovf _ => none
  | .fixovf rd _ => some rd
  | .fixunf rd _ => some rd
  | .feq _ _ => none
  | .wadd rd _ _ => some rd
  | .wsub rd _ _ => some rd
  | .fadd rd _ _ => some rd
  | .fsub rd _ _ => some rd
  | .fneg rd _ => some rd
  | .bmul rd _ _ => some rd
  | .bsqr rd _ => some rd
  | .mmul rd _ _ => some rd
  | .msqr rd _ => some rd
  | .tomont rd _ => some rd
  | .frommont rd _ => some rd
  | .pow rd _ _ => some rd
  | .inv rd _ => some rd
  | .rand rd => some rd

/-- The flag a command writes, if it writes one (10_state.md R26, 30_encoding.md R96). -/
def flagWritten : Instr → Option Flag
  | .chkovf _ => some .ovf
  | .feq _ _ => some .eq
  | .wadd _ _ _ => some .cry
  | .wsub _ _ _ => some .brw
  | .nop => none
  | .fmov _ _ => none
  | .fldc _ _ => none
  | .fixovf _ _ => none
  | .fixunf _ _ => none
  | .fadd _ _ _ => none
  | .fsub _ _ _ => none
  | .fneg _ _ => none
  | .bmul _ _ _ => none
  | .bsqr _ _ => none
  | .mmul _ _ _ => none
  | .msqr _ _ => none
  | .tomont _ _ => none
  | .frommont _ _ => none
  | .pow _ _ _ => none
  | .inv _ _ => none
  | .rand _ => none

/-- `RAND`, the only command that consumes entropy and whose completion is not guaranteed by the FAU alone
(30_encoding.md R96, 45_sampling.md R215). -/
def isRand : Instr → Bool
  | .rand _ => true
  | _ => false

/-- `s` with `v` in `fd`, all 256 bits written, and the phase IDLE; NOTHING else is changed. -/
def State.withResult (s : State) (rd : FReg) (v : U256) : State :=
  { s with regs := s.regs.put rd (Cell.written v), busy := false }

/-- `s` with a fresh free value in `fd` and the phase IDLE; nothing else is changed but the number of draws taken. -/
def State.withFreeResult (s : State) (rd : FReg) : State :=
  { s with regs := s.regs.put rd (Cell.written (Config.drawU256 s.draws)), draws := s.draws + 1, busy := false }

/-- `s` with `fd` unwritten and the phase IDLE; nothing else is changed. -/
def State.withUnwrittenResult (s : State) (rd : FReg) : State :=
  { s with regs := s.regs.put rd Cell.unwritten, busy := false }

/-- `s` with one flag written and the phase IDLE; nothing else is changed. -/
def State.withFlag (s : State) (k : Flag) (b : Bool) : State :=
  { s with flags := s.flags.put k b, busy := false }

/-- `s` with a fresh free value in one flag and the phase IDLE; nothing else is changed but the number of draws
taken. -/
def State.withFreeFlag (s : State) (k : Flag) : State :=
  { s with flags := s.flags.put k (Config.drawU1 s.draws), draws := s.draws + 1, busy := false }

/-- The hard reset input is released and the next step is the host's access `a`, then `rest`. -/
def State.hostNext (s : State) (a : HostAccess) (rest : List Event) : Prop :=
  s.resetHeld = false ∧ s.agenda = .host a :: rest

/-- `s` after the head of its agenda has been taken and the port has answered `r`. -/
def State.answering (s : State) (r : Reply) (rest : List Event) : State :=
  { s with agenda := rest, replies := r :: s.replies }

end Sys2Proof.Machine
end

