-- ==== Sys2Proof/Certificates/Slice0/Obligations.lean ====
section
/-! DEFINITION. The statements for the provers. `State.withResult`, `State.withFlag` and their free and unwritten
forms (Safety.lean) are the whole next state: they change the named fields and nothing else, so a statement that ends
in one of them gives the result, the frame and the completion at once. -/

open Sys2Proof Sys2Proof.Machine

/-! ## Encoding -/

/-- For every well-formed command the decoder reads back, from the value a host writes to `CMD`, that command with
every operand (30_encoding.md R98, R101). -/
def Obligations.DecodeInvertsEncode : Prop :=
  ∀ i : Instr, i.wf = true → decode (commandValue i) = .legal i

/-- A legal value on `CMD` is the encoding of the one well-formed command it decodes to: no bit is ignored
(30_encoding.md R101, R104, R105). -/
def Obligations.LegalValueIsItsEncoding : Prop :=
  ∀ (w : U64) (i : Instr), decode w = .legal i → i.wf = true ∧ w = commandValue i

/-- A value with any of bits 63:32 set is illegal whatever bits 31:0 hold, and otherwise each of the 235 `op` values
not in the map is illegal (30_encoding.md R102, R103). -/
def Obligations.HighBitsAndUnknownOpcodesAreIllegal : Prop :=
  ∀ w : U64,
    (2 ^ 32 ≤ w.toNat → decode w = .illegal .cmdHigh) ∧
    (w.toNat < 2 ^ 32 →
      (0x03 ≤ w.toNat % 256 ∧ w.toNat % 256 ≤ 0x0f) ∨ w.toNat % 256 = 0x16 ∨ w.toNat % 256 = 0x17 ∨
        (0x1b ≤ w.toNat % 256 ∧ w.toNat % 256 ≤ 0x1f) ∨ (0x22 ≤ w.toNat % 256 ∧ w.toNat % 256 ≤ 0x2f) ∨
        (0x34 ≤ w.toNat % 256 ∧ w.toNat % 256 ≤ 0x3f) ∨ (0x42 ≤ w.toNat % 256 ∧ w.toNat % 256 ≤ 0x4f) ∨
        (0x51 ≤ w.toNat % 256) →
      decode w = .illegal .illegalOpcode)

/-- A word whose `op` is legal is `ILLEGAL_OPERAND` exactly if a bit of `zero` is set, a field its format does not use
is not 0, a used register field is 8 or more, or the selector of `FLDC` is 6 or more (30_encoding.md R104, with the
formats of R93). -/
def Obligations.BadFieldsAreIllegalOperands : Prop :=
  ∀ (w : U64) (op : Opcode), w.toNat < 2 ^ 32 → w.toNat % 256 = op.code.toNat →
    (decode w = .illegal .illegalOperand ↔
      w.toNat / 2 ^ 20 ≠ 0 ∨
      (match op.format with
        | .d | .ds | .dc | .dss => 8 ≤ w.toNat / 2 ^ 8 % 16
        | .z | .s | .ss => w.toNat / 2 ^ 8 % 16 ≠ 0) ∨
      (match op.format with
        | .s | .ss | .ds | .dss => 8 ≤ w.toNat / 2 ^ 12 % 16
        | .dc => 6 ≤ w.toNat / 2 ^ 12 % 16
        | .z | .d => w.toNat / 2 ^ 12 % 16 ≠ 0) ∨
      (match op.format with
        | .ss | .dss => 8 ≤ w.toNat / 2 ^ 16 % 16
        | .z | .d | .s | .ds | .dc => w.toNat / 2 ^ 16 % 16 ≠ 0))

/-- Words written out from the opcode map decode to the commands they stand for (30_encoding.md R97). -/
def Obligations.WordsOfTheMapDecode : Prop :=
  decode 0x00000000#64 = .legal .nop ∧
  decode 0x00005002#64 = .legal (.fldc .f0 5#4) ∧
  decode 0x00002010#64 = .legal (.chkovf .f2) ∧
  decode 0x00021013#64 = .legal (.feq .f1 .f2) ∧
  decode 0x00021318#64 = .legal (.fadd .f3 .f1 .f2) ∧
  decode 0x00077720#64 = .legal (.bmul .f7 .f7 .f7) ∧
  decode 0x00001332#64 = .legal (.tomont .f3 .f1) ∧
  decode 0x00021340#64 = .legal (.pow .f3 .f1 .f2) ∧
  decode 0x00000750#64 = .legal (.rand .f7)

/-! ## Constants -/

/-- The constants of the ROM are the values their definitions give (10_state.md R30 to R34). -/
def Obligations.ConstantsMeetTheirDefinitions : Prop :=
  modulus = 21888242871839275222246405745257275088548364400416034343698204186575808495617 ∧
  romMu.toNat = 2 ^ 508 / modulus ∧
  (modulus * romPi.toNat + 1) % 2 ^ 256 = 0 ∧
  ((limb romP .l0).toNat * pi0 + 1) % 2 ^ 64 = 0 ∧
  romR2.toNat = 2 ^ 512 % modulus ∧
  (2 ^ 256 * rInv) % modulus = 1 ∧
  romZero.toNat = 0 ∧ romOne.toNat = 1

/-- The modulus is prime (10_state.md R30), which the meaning of `INV` rests on (44_exp_inv.md R196). -/
def Obligations.ModulusIsPrime : Prop := Nat.Prime modulus

/-! ## Reset, invariant, whole-machine rules -/

/-- After reset no register carries a value, `STATUS` and `FLAGS` read 0, and the FAU does nothing by itself
(10_state.md R50, 70_reset_and_hazards.md R261). -/
def Obligations.ResetHoldsNoValueAndIdles : Prop :=
  State.reset.IsReset ∧ statusWord State.reset = 0#64 ∧ flagsWord State.reset.flags = 0#64 ∧
  step State.reset = .next State.reset

/-- The invariant of Safety.lean holds right after reset. -/
def Obligations.ResetMeetsTheInvariant : Prop := State.reset.Inv

/-- From every state that meets the invariant, whatever agent moves, the next state meets it: `CAUSE` is 0 or a code
of 1 to 4 as `FAULT` says, a BUSY machine has a legal command latched, a machine held in reset is in the reset state,
and unwritten limbs are in canonical form (the last is the model's own form, notes/assumptions/1.md). -/
def Obligations.EveryStepKeepsTheInvariant : Prop :=
  ∀ s t : State, s.Inv → step s = .next t → t.Inv

/-- Once recorded, a fault and its cause stay, whatever step is taken, until a reset (60_exceptions.md R233, R234). -/
def Obligations.FaultStaysUntilReset : Prop :=
  ∀ s t : State, s.fault = true → s.nextIsReset = false → step s = .next t → t.fault = true ∧ t.cause = s.cause

/-- A flag changes only by the completion step of its own command or by a reset, only that one bit changes, and after
a reset all are 0 (10_state.md R27). -/
def Obligations.FlagsChangeOnlyByTheirCommand : Prop :=
  ∀ s t : State, step s = .next t →
    (s.nextIsReset = true → ∀ k, t.flags.get k = false) ∧
    (s.nextIsReset = false → ∀ k, t.flags.get k ≠ s.flags.get k →
      s.engineTurn = true ∧ s.busy = true ∧
      (∃ i, latchedCommand s.cmdLatch = some i ∧ flagWritten i = some k) ∧
      ∀ m, m ≠ k → t.flags.get m = s.flags.get m)

/-- A register changes only by a reset, by the completion step of a command that names it as its destination, or, in
phase IDLE, by a host write of one of its limbs (20_memory.md R76, 30_encoding.md R96). -/
def Obligations.RegistersChangeOnlyByCommandsAndLimbWrites : Prop :=
  ∀ (s t : State) (r : FReg), step s = .next t → t.cell r ≠ s.cell r →
    s.nextIsReset = true ∨
    (s.engineTurn = true ∧ s.busy = true ∧ t.busy = false ∧
      ∃ i, latchedCommand s.cmdLatch = some i ∧ destination i = some r) ∨
    (s.busy = false ∧ ∃ j w rest, s.agenda = .host (.write (s.base + windowOffset (.limb r j)) 8 w) :: rest)

/-- The position in the entropy stream advances only by a draw step of `RAND`, by the four words it takes; no other
step and no reset touches it, and words come into the stream only at its end (10_state.md R49, 45_sampling.md
R210, R213). -/
def Obligations.EntropyAdvancesOnlyByDraws : Prop :=
  ∀ s t : State, step s = .next t →
    (t.entropyPos = s.entropyPos ∧
      (t.entropy = s.entropy ∨ ∃ w rest, s.agenda = .entropy w :: rest ∧ t.entropy = s.entropy ++ [w])) ∨
    (t.entropyPos = s.entropyPos + 4 ∧ (∃ w0 w1 w2 w3, s.entropy = w0 :: w1 :: w2 :: w3 :: t.entropy) ∧
      s.engineTurn = true ∧ s.busy = true ∧ ∃ rd, latchedCommand s.cmdLatch = some (.rand rd))

/-! ## The engine -/

/-- When the engine has the turn in phase BUSY, the step runs the latched command: with an empty agenda on the state
itself, and on an engine event after taking that event off (30_encoding.md R100; whose turn it is: notes/assumptions/
6.md). -/
def Obligations.StepRunsTheLatchedCommand : Prop :=
  ∀ (s : State) (i : Instr), s.busy = true → s.resetHeld = false → latchedCommand s.cmdLatch = some i →
    (s.agenda = [] → step s = exec i s) ∧
    (∀ rest, s.agenda = .engine :: rest → step s = exec i { s with agenda := rest })

/-- Every command but `RAND` completes in the one step the engine takes: the step answers a next state in phase IDLE
(70_reset_and_hazards.md R276). -/
def Obligations.EveryCommandButRandCompletesInOneStep : Prop :=
  ∀ (s : State) (i : Instr), s.busy = true → s.resetHeld = false → s.engineTurn = true →
    latchedCommand s.cmdLatch = some i → isRand i = false → ∃ t, step s = .next t ∧ t.busy = false

/-- A command changes no register but its destination, no flag but its own, and nothing else of the machine: not
`FAULT`, `CAUSE`, the latch, the reset input or the port; only `RAND` touches the entropy stream, and only `RAND` may
leave the phase as it was, and then every register too (30_encoding.md R96, R100; 20_memory.md R76). -/
def Obligations.CommandsTouchOnlyTheirDestinations : Prop :=
  ∀ (i : Instr) (s t : State), exec i s = .next t →
    (∀ r, destination i ≠ some r → t.cell r = s.cell r) ∧
    (∀ k, flagWritten i ≠ some k → t.flags.get k = s.flags.get k) ∧
    t.fault = s.fault ∧ t.cause = s.cause ∧ t.cmdLatch = s.cmdLatch ∧ t.resetHeld = s.resetHeld ∧
    t.baseBlock = s.baseBlock ∧ t.agenda = s.agenda ∧ t.replies = s.replies ∧
    (isRand i = false → t.busy = false ∧ t.entropy = s.entropy ∧ t.entropyPos = s.entropyPos) ∧
    (isRand i = true → t.busy = false ∨ (t.busy = s.busy ∧ t.regs = s.regs))

/-- For every legal command the completion step records no fault, whatever the operand values, and it never stops
(60_exceptions.md R230). -/
def Obligations.CommandsNeverFault : Prop :=
  ∀ (i : Instr) (s : State), i.wf = true → ∃ t, exec i s = .next t ∧ t.fault = s.fault ∧ t.cause = s.cause

/-! ## Faults, resets and the host's accesses -/

/-- `raise Fault(c)` records the first cause and its code, and changes nothing where a fault is recorded already
(60_exceptions.md R233, R231). -/
def Obligations.FirstFaultIsKept : Prop :=
  ∀ (s : State) (c : Cause),
    (s.fault = true → s.raiseFault c = s) ∧
    (s.fault = false → s.raiseFault c = { s with
      fault := true
      cause := (match c with
        | .illegalOpcode => 1#4
        | .illegalOperand => 2#4
        | .cmdHigh => 3#4
        | .busyViolation => 4#4) })

/-- The accept step: a host write of `w` to `CMD` does what the tests of R99 say in their order, and nothing else; in
particular an illegal word changes nothing but `FAULT` and `CAUSE` (30_encoding.md R99, R106). -/
def Obligations.CmdWriteIsTheAcceptStep : Prop :=
  ∀ (s : State) (w : U64) (rest : List Event), s.hostNext (.write s.base 8 w) rest →
    step s = .next (
      if s.fault then s.answering .done rest
      else if s.busy then { s.answering .done rest with fault := true, cause := 4#4 }
      else match decode w with
        | .illegal c => { s.answering .done rest with fault := true, cause := causeCode c }
        | .legal _ => { s.answering .done rest with cmdLatch := w.setWidth 32, busy := true })

/-- The phase rule while `BUSY = 1`: a write to `CMD` and a write to a limb are dropped, a read of a limb returns a free
value, and each raises `BUSY_VIOLATION` (nothing more where a fault is recorded already), the running command staying
latched; every other access of R72 is legal in either phase (20_memory.md R72). -/
def Obligations.BusyPhaseRule : Prop :=
  ∀ (s : State) (i : FReg) (j : LimbIx) (w : U64) (rest : List Event),
    let violated := fun t : State => if s.fault then t else { t with fault := true, cause := 4#4 }
    (s.busy = true →
      (s.hostNext (.write s.base 8 w) rest → step s = .next (violated (s.answering .done rest))) ∧
      (s.hostNext (.write (s.base + (0x100 + 32 * i.code.toNat + 8 * limbIndex j)) 8 w) rest →
        step s = .next (violated (s.answering .done rest))) ∧
      (s.hostNext (.read (s.base + (0x100 + 32 * i.code.toNat + 8 * limbIndex j)) 8) rest →
        step s = .next (violated { s.answering (.data (Config.drawU64 s.draws)) rest with draws := s.draws + 1 }))) ∧
    (∀ off ∈ [0x000, 0x008, 0x010, 0x018], s.hostNext (.read (s.base + off) 8) rest →
      ∃ d, step s = .next (s.answering (.data d) rest)) ∧
    (∀ off ∈ [0x008, 0x010], s.hostNext (.write (s.base + off) 8 w) rest →
      step s = .next (s.answering .done rest)) ∧
    (s.hostNext (.write (s.base + 0x018) 8 w) rest →
      ∃ t, step s = .next t ∧ (t = s.answering .done rest ∨ t.IsReset))

/-- In phase IDLE a write of `v` to limb `j` of `fi` replaces that limb and leaves the other three limbs and every
other register and field unchanged, and a read of a written limb returns it (20_memory.md R66); a read of a limb not
written since reset returns a free value (10_state.md R50, R51; 20_memory.md R67; 93_implementation_defined.md U1). The
form of the free value is the model's (notes/assumptions/3.md), and that a read looks at the mark of its own limb alone
is the model's reading (notes/assumptions/4.md). -/
def Obligations.IdleLimbAccess : Prop :=
  ∀ (s : State) (i : FReg) (j : LimbIx) (v : U64) (rest : List Event), s.busy = false →
    (s.hostNext (.write (s.base + (0x100 + 32 * i.code.toNat + 8 * limbIndex j)) 8 v) rest →
      ∃ c, step s = .next { s.answering .done rest with regs := s.regs.put i c } ∧
        c.value.toNat = (s.cell i).value.toNat - (limb (s.cell i).value j).toNat * 2 ^ (64 * limbIndex j)
          + v.toNat * 2 ^ (64 * limbIndex j) ∧
        ∀ k, c.marks.get k = (if k = j then true else (s.cell i).marks.get k)) ∧
    (s.hostNext (.read (s.base + (0x100 + 32 * i.code.toNat + 8 * limbIndex j)) 8) rest →
      ((s.cell i).marks.get j = true →
        ∃ d, step s = .next (s.answering (.data d) rest) ∧
          d.toNat = (s.cell i).value.toNat / 2 ^ (64 * limbIndex j) % 2 ^ 64) ∧
      ((s.cell i).marks.get j = false →
        step s = .next { s.answering (.data (Config.drawU64 s.draws)) rest with draws := s.draws + 1 }))

/-- A field register written limb by limb becomes written only when all four of its limbs have been written, in any
order; until then it carries no value, and a limb not written none either (10_state.md R51, 20_memory.md R67). -/
def Obligations.RegisterIsWrittenWhenAllLimbsAre : Prop :=
  ∀ (c : Cell) (v : U256) (js : List LimbIx),
    ((∀ j, j ∈ js) → js.foldl (fun c j => c.putLimb j (limb v j)) c = Cell.written v) ∧
    (∀ j, j ∉ js → c.marks.get j = false →
      (js.foldl (fun c j => c.putLimb j (limb v j)) c).value? = none ∧
      (js.foldl (fun c j => c.putLimb j (limb v j)) c).limb? j = none)

/-- In phase IDLE the 32 bytes at `0x100 + 32*i` are the little-endian encoding of the value of a written `f[i]`, and
the 8 bytes of each written limb, be the register written in whole or in part, are that limb's; in either phase, and
whatever is written, the bytes of `STATUS` and `FLAGS` lie in the same order, and those of `CMD` and `CTRL` read as 0
(20_memory.md R62, R69). -/
def Obligations.WindowIsLittleEndian : Prop :=
  ∀ s : State,
    (∀ (i : FReg) (v : U256) (m : Nat), s.busy = false → s.source i = some v → m < 32 →
      windowByte s (0x100 + 32 * i.code.toNat + m) = some (v.extractLsb' (8 * m) 8)) ∧
    (∀ (i : FReg) (j : LimbIx) (w : U64) (k : Nat), s.busy = false → (s.cell i).limb? j = some w → k < 8 →
      windowByte s (0x100 + 32 * i.code.toNat + 8 * limbIndex j + k) = some (w.extractLsb' (8 * k) 8)) ∧
    (∀ k, k < 8 →
      windowByte s (0x008 + k) = some ((statusWord s).extractLsb' (8 * k) 8) ∧
      windowByte s (0x010 + k) = some ((flagsWord s.flags).extractLsb' (8 * k) 8) ∧
      windowByte s (0x000 + k) = some 0#8 ∧
      windowByte s (0x018 + k) = some 0#8)

/-- An access of a size other than 8, or not aligned, or to an unmapped offset is answered with `BusError` in that
order of tests, and the model refuses the host program (20_memory.md R65, R70, R71, R61); every other access in the
window is answered. That an access outside the window is refused by name is the model's (notes/assumptions/9.md). -/
def Obligations.BusErrorsAreRefusedInOrder : Prop :=
  ∀ (s : State) (a : HostAccess) (rest : List Event), s.hostNext a rest →
    (a.addr < s.base ∨ s.base + 0x200 < a.addr + a.size → step s = .refused .outsideWindow) ∧
    (s.base ≤ a.addr → a.addr + a.size ≤ s.base + 0x200 →
      (a.size ≠ 8 → step s = .refused (.busError .size)) ∧
      (a.size = 8 → (a.addr - s.base) % 8 ≠ 0 → step s = .refused (.busError .alignment)) ∧
      (a.size = 8 → (a.addr - s.base) % 8 = 0 → 0x020 ≤ a.addr - s.base → a.addr - s.base < 0x100 →
        step s = .refused (.busError .unmapped)) ∧
      (a.size = 8 → (a.addr - s.base) % 8 = 0 → (a.addr - s.base < 0x020 ∨ 0x100 ≤ a.addr - s.base) →
        ∃ t r, step s = .next t ∧ t.replies = r :: s.replies ∧ t.agenda = rest))

/-- A write to a read-only register is accepted and ignored, and a read of a write-only register returns 0
(20_memory.md R69). -/
def Obligations.ReadOnlyIgnoresWriteOnlyReadsZero : Prop :=
  ∀ (s : State) (w : U64) (rest : List Event),
    (s.hostNext (.write (s.base + 0x008) 8 w) rest → step s = .next (s.answering .done rest)) ∧
    (s.hostNext (.write (s.base + 0x010) 8 w) rest → step s = .next (s.answering .done rest)) ∧
    (s.hostNext (.read s.base 8) rest → step s = .next (s.answering (.data 0#64) rest)) ∧
    (s.hostNext (.read (s.base + 0x018) 8) rest → step s = .next (s.answering (.data 0#64) rest))

/-- In either phase a read of `STATUS` returns `BUSY` in bit 0, `FAULT` in bit 1, `CAUSE` in bits 7:4 and 0 elsewhere, a
read of `FLAGS` returns `OVF`, `EQ`, `CRY`, `BRW` in bits 0 to 3 and 0 elsewhere, and neither changes the FAU
(10_state.md R40, R26, R43; 20_memory.md R68). -/
def Obligations.StatusAndFlagsReadOut : Prop :=
  ∀ (s : State) (rest : List Event),
    (s.hostNext (.read (s.base + 0x008) 8) rest →
      ∃ d, step s = .next (s.answering (.data d) rest) ∧ ∀ k, d.getLsbD k =
        (if k = 0 then s.busy else if k = 1 then s.fault
          else if 4 ≤ k ∧ k < 8 then s.cause.getLsbD (k - 4) else false)) ∧
    (s.hostNext (.read (s.base + 0x010) 8) rest →
      ∃ d, step s = .next (s.answering (.data d) rest) ∧ ∀ k, d.getLsbD k =
        (if k = 0 then s.flags.ovf else if k = 1 then s.flags.eq
          else if k = 2 then s.flags.cry else if k = 3 then s.flags.brw else false))

/-- `CTRL`: writing bit 0 as 1 is a soft reset, in either phase and whatever `FAULT` is; writing it as 0 does nothing;
the other bits are ignored; a read returns 0 (10_state.md R42, 46_move_system.md R226, 10_state.md R50). The reset
leaves the entropy stream and its position (10_state.md R49). That the port's record of its answers goes on is the
model's choice (notes/assumptions/17.md), as the order of the steps is (notes/assumptions/6.md). -/
def Obligations.CtrlWriteIsTheSoftReset : Prop :=
  ∀ (s : State) (w : U64) (rest : List Event),
    (s.hostNext (.write (s.base + 0x018) 8 w) rest →
      (w.toNat % 2 = 1 → ∃ t, step s = .next t ∧ t.IsReset ∧ t.entropy = s.entropy ∧ t.entropyPos = s.entropyPos ∧
        t.resetHeld = false ∧ t.baseBlock = s.baseBlock ∧ t.agenda = rest ∧ t.replies = .done :: s.replies) ∧
      (w.toNat % 2 = 0 → step s = .next (s.answering .done rest))) ∧
    (s.hostNext (.read (s.base + 0x018) 8) rest → step s = .next (s.answering (.data 0#64) rest))

/-- The hard reset input puts the FAU into the same reset state from any state and leaves the entropy stream; while it
is asserted every access is refused and the engine does nothing, whether its turn is an event or an empty agenda; its
release changes nothing else (70_reset_and_hazards.md R260; how the input is modelled: notes/assumptions/13.md; whose
turn it is: notes/assumptions/6.md). -/
def Obligations.HardResetHoldsTheResetState : Prop :=
  ∀ (s : State) (rest : List Event),
    (s.agenda = .assertReset :: rest → ∃ t, step s = .next t ∧ t.IsReset ∧ t.resetHeld = true ∧
      t.entropy = s.entropy ∧ t.entropyPos = s.entropyPos ∧ t.agenda = rest ∧ t.replies = s.replies) ∧
    (s.resetHeld = true → ∀ a, s.agenda = .host a :: rest → step s = .refused .accessUnderReset) ∧
    (s.resetHeld = true → s.agenda = .engine :: rest → step s = .next { s with agenda := rest }) ∧
    (s.resetHeld = true → s.agenda = [] → step s = .next s) ∧
    (s.agenda = .releaseReset :: rest → step s = .next { s with agenda := rest, resetHeld := false })

/-- What an access does depends on its offset from `BASE` alone: the same access to a machine that differs only in
`BASE` is answered alike and leaves the same state (20_memory.md R60; 92_eei_decisions.md D10). -/
def Obligations.BaseDoesNotMatter : Prop :=
  ∀ (s : State) (b off n : Nat) (w : U64),
    let moved := { s with baseBlock := b }
    let move := fun r : AccessResult => (match r with
      | .answered p t => .answered p { t with baseBlock := b }
      | .busError k => .busError k
      | .outside => .outside : AccessResult)
    moved.busAccess (.read (moved.base + off) n) = move (s.busAccess (.read (s.base + off) n)) ∧
    moved.busAccess (.write (moved.base + off) n w) = move (s.busAccess (.write (s.base + off) n w))

/-! ## Limbs, fixups and the wide commands -/

/-- The contracts of the limb primitives `adc`, `sbb` and `wmul` (40_fixups.md R120, R121, R122). -/
def Obligations.LimbPrimitivesMeetTheirContracts : Prop :=
  ∀ (x y : U64) (c : Bool),
    ((adc x y c).1.toNat = (x.toNat + y.toNat + c.toNat) % 2 ^ 64 ∧
      (adc x y c).2.toNat = (x.toNat + y.toNat + c.toNat) / 2 ^ 64) ∧
    (((sbb x y c).1.toNat : Int) = ((x.toNat : Int) - y.toNat - c.toNat) % 2 ^ 64 ∧
      ((sbb x y c).2 = true ↔ (x.toNat : Int) - y.toNat - c.toNat < 0)) ∧
    ((wmul x y).1.toNat = (x.toNat * y.toNat) % 2 ^ 64 ∧ (wmul x y).2.toNat = (x.toNat * y.toNat) / 2 ^ 64)

/-- The chains compute the 256-bit sum with its carry and the 256-bit difference with its borrow (40_fixups.md
R123). -/
def Obligations.WideChainsAddAndSubtract : Prop :=
  ∀ x y : U256,
    ((add256 x y).1.toNat = (x.toNat + y.toNat) % 2 ^ 256 ∧ (add256 x y).2.toNat = (x.toNat + y.toNat) / 2 ^ 256) ∧
    (((sub256 x y).1.toNat : Int) = ((x.toNat : Int) - y.toNat) % 2 ^ 256 ∧
      ((sub256 x y).2 = true ↔ x.toNat < y.toNat))

/-- The range facts of the fixups: on canonical operands the sum does not carry and one fixup makes it the modular sum,
and the difference with its borrow becomes the modular difference; `k` fixups subtract `min(k, floor(x / P))` times
`P`; no value holds `P` more than five times, and four fixups canonicalise exactly the values below `5P`
(40_fixups.md R135). -/
def Obligations.FixupRanges : Prop :=
  (∀ u v : U256, u.toNat < modulus → v.toNat < modulus →
    (add256 u v).2 = false ∧ (add256 u v).1.toNat < 2 * modulus ∧
    (fixOverflow (add256 u v).1).toNat = (u.toNat + v.toNat) % modulus ∧
    ((fixUnderflow (sub256 u v).1 (sub256 u v).2).toNat : Int) = ((u.toNat : Int) - v.toNat) % modulus) ∧
  (∀ (x : U256) (k : Nat), (fixOverflow^[k] x).toNat = x.toNat - min k (x.toNat / modulus) * modulus) ∧
  (∀ x : U256, x.toNat / modulus ≤ 5 ∧ (fixOverflow^[5] x).toNat < modulus ∧
    ((fixOverflow^[4] x).toNat < modulus ↔ x.toNat < 5 * modulus))

/-- `CHKOVF` sets `OVF` to 1 iff its operand is `P` or more, for every 256-bit value, and changes nothing else
(40_fixups.md R126). -/
def Obligations.ChkovfComparesWithP : Prop :=
  ∀ (s : State) (rs : FReg) (x : U256), s.source rs = some x →
    exec (.chkovf rs) s = .next (s.withFlag .ovf (decide (modulus ≤ x.toNat)))

/-- `FEQ` sets `EQ` to 1 iff the two patterns are equal, and changes nothing else (40_fixups.md R129). -/
def Obligations.FeqComparesPatterns : Prop :=
  ∀ (s : State) (rs1 rs2 : FReg) (x y : U256), s.source rs1 = some x → s.source rs2 = some y →
    exec (.feq rs1 rs2) s = .next (s.withFlag .eq (decide (x = y)))

/-- `FIXOVF` subtracts `P` once where the operand is `P` or more and copies it otherwise, writes no flag and changes
nothing else (40_fixups.md R127, R133). -/
def Obligations.FixovfSubtractsPOnce : Prop :=
  ∀ (s : State) (rd rs : FReg) (x : U256), s.source rs = some x →
    exec (.fixovf rd rs) s = .next (s.withResult rd
      (BitVec.ofNat 256 (if modulus ≤ x.toNat then x.toNat - modulus else x.toNat)))

/-- `FIXUNF` adds `P` modulo `2^256` where `BRW` is 1 and copies otherwise; `BRW` and every other flag keep their
values and nothing else changes (40_fixups.md R128, R134). -/
def Obligations.FixunfAddsPOnBorrow : Prop :=
  ∀ (s : State) (rd rs : FReg) (x : U256), s.source rs = some x →
    exec (.fixunf rd rs) s = .next (s.withResult rd
      (BitVec.ofNat 256 (if s.flags.brw then (x.toNat + modulus) % 2 ^ 256 else x.toNat)))

/-- `WADD` writes the sum modulo `2^256` and its carry to `CRY`, and nothing else (40_fixups.md R130). -/
def Obligations.WaddAddsWithCarryOut : Prop :=
  ∀ (s : State) (rd rs1 rs2 : FReg) (x y : U256), s.source rs1 = some x → s.source rs2 = some y →
    exec (.wadd rd rs1 rs2) s = .next { s.withResult rd (BitVec.ofNat 256 ((x.toNat + y.toNat) % 2 ^ 256)) with
      flags := { s.flags with cry := decide (2 ^ 256 ≤ x.toNat + y.toNat) } }

/-- `WSUB` writes the difference modulo `2^256` and its borrow to `BRW`, and nothing else (40_fixups.md R131). -/
def Obligations.WsubSubtractsWithBorrowOut : Prop :=
  ∀ (s : State) (rd rs1 rs2 : FReg) (x y : U256), s.source rs1 = some x → s.source rs2 = some y →
    exec (.wsub rd rs1 rs2) s = .next { s.withResult rd (BitVec.ofNat 256 ((x.toNat + 2 ^ 256 - y.toNat) % 2 ^ 256)) with
      flags := { s.flags with brw := decide (x.toNat < y.toNat) } }

/-! ## The modular commands -/

/-- `FADD` on canonical operands writes `(x + y) mod P` and nothing else (41_additive.md R140). -/
def Obligations.FaddAddsModuloP : Prop :=
  ∀ (s : State) (rd rs1 rs2 : FReg) (x y : U256), s.source rs1 = some x → s.source rs2 = some y →
    x.toNat < modulus → y.toNat < modulus →
    exec (.fadd rd rs1 rs2) s = .next (s.withResult rd (BitVec.ofNat 256 ((x.toNat + y.toNat) % modulus)))

/-- `FSUB` on canonical operands writes `(x - y) mod P`, `FNEG` writes 0 for 0 and `P - x` otherwise, and neither
changes anything else (41_additive.md R141, R142). -/
def Obligations.FsubAndFnegSubtractModuloP : Prop :=
  ∀ (s : State) (rd rs1 rs2 : FReg) (x y : U256), s.source rs1 = some x → s.source rs2 = some y →
    x.toNat < modulus → y.toNat < modulus →
    exec (.fsub rd rs1 rs2) s = .next (s.withResult rd
      (BitVec.ofNat 256 ((x.toNat + (modulus - y.toNat)) % modulus))) ∧
    exec (.fneg rd rs1) s = .next (s.withResult rd
      (BitVec.ofNat 256 (if x.toNat = 0 then 0 else modulus - x.toNat)))

/-- The schoolbook product of 16 partial products and the square of 10 are exact (42_barrett.md R150, R151). -/
def Obligations.ProductsAreExact : Prop :=
  ∀ x y : U256, (mul512 x y).toNat = x.toNat * y.toNat ∧ (sqr512 x).toNat = x.toNat * x.toNat

/-- For every `z < P^2` the quotient estimate is `floor(z / P)` or one less, both of which occur, the difference
`z - q * P` lies in `[0, 2P)` and is what the low 256 bits hold, and the reduction is `z mod P` (42_barrett.md
R152). -/
def Obligations.BarrettEstimateIsOffByAtMostOne : Prop :=
  (∀ z : U512, z.toNat < modulus ^ 2 →
    (barrettQuotient z = z.toNat / modulus ∨ barrettQuotient z + 1 = z.toNat / modulus) ∧
    barrettQuotient z * modulus ≤ z.toNat ∧
    (barrettRemainder z).toNat = z.toNat - barrettQuotient z * modulus ∧
    (barrettRemainder z).toNat < 2 * modulus ∧
    (barrettReduce z).toNat = z.toNat % modulus) ∧
  (∃ z : U512, z.toNat < modulus ^ 2 ∧ barrettQuotient z = z.toNat / modulus) ∧
  (∃ z : U512, z.toNat < modulus ^ 2 ∧ barrettQuotient z + 1 = z.toNat / modulus)

/-- `BMUL` and `BSQR` on canonical operands write `(x * y) mod P` and `(x * x) mod P` and change nothing else
(42_barrett.md R153, R154, R156). -/
def Obligations.BarrettCommandsMultiplyModuloP : Prop :=
  ∀ (s : State) (rd rs1 rs2 : FReg) (x y : U256), s.source rs1 = some x → s.source rs2 = some y →
    x.toNat < modulus → y.toNat < modulus →
    exec (.bmul rd rs1 rs2) s = .next (s.withResult rd (BitVec.ofNat 256 ((x.toNat * y.toNat) % modulus))) ∧
    exec (.bsqr rd rs1) s = .next (s.withResult rd (BitVec.ofNat 256 ((x.toNat * x.toNat) % modulus)))

/-- The CIOS accumulator: from `t < 2P` and `y < P` it stays below the bounds of the rule inside an iteration, so it
fits five limbs, the shift divides exactly, and it is below `2P` again after it; after the four iterations
`t * 2^256 = x * y + k * P` for some `k` (43_montgomery.md R172). -/
def Obligations.CiosAccumulatorFitsFiveLimbs : Prop :=
  (∀ (y : U256) (xi : U64) (t : Nat), y.toNat < modulus → t < 2 * modulus →
    ciosMac y xi t < 2 * modulus + (2 ^ 64 - 1) * modulus ∧
    ciosMac y xi t + ciosFactor (ciosMac y xi t) * modulus < 2 * modulus + 2 * (2 ^ 64 - 1) * modulus ∧
    ciosMac y xi t + ciosFactor (ciosMac y xi t) * modulus < 2 ^ 319 ∧
    (ciosMac y xi t + ciosFactor (ciosMac y xi t) * modulus) % 2 ^ 64 = 0 ∧
    ciosStep y t xi < 2 * modulus) ∧
  (∀ x y : U256, y.toNat < modulus →
    ciosLoop x y < 2 * modulus ∧ ∃ k, ciosLoop x y * 2 ^ 256 = x.toNat * y.toNat + k * modulus)

/-- `MMUL` and `MSQR` on canonical operands write `(x * y * RINV) mod P` and `(x * x * RINV) mod P`, whatever domain the
operands stand for, and change nothing else (43_montgomery.md R173, R174, R177). -/
def Obligations.MontgomeryCommandsMultiplyByRInverse : Prop :=
  ∀ (s : State) (rd rs1 rs2 : FReg) (x y : U256), s.source rs1 = some x → s.source rs2 = some y →
    x.toNat < modulus → y.toNat < modulus →
    exec (.mmul rd rs1 rs2) s = .next (s.withResult rd (BitVec.ofNat 256 ((x.toNat * y.toNat * rInv) % modulus))) ∧
    exec (.msqr rd rs1) s = .next (s.withResult rd (BitVec.ofNat 256 ((x.toNat * x.toNat * rInv) % modulus)))

/-- `TOMONT` on a canonical operand writes `(x * 2^256) mod P`, `FROMMONT` writes `(x * RINV) mod P`, and neither changes
anything else (43_montgomery.md R175, R176). -/
def Obligations.DomainTransforms : Prop :=
  ∀ (s : State) (rd rs : FReg) (x : U256), s.source rs = some x → x.toNat < modulus →
    exec (.tomont rd rs) s = .next (s.withResult rd (BitVec.ofNat 256 ((x.toNat * 2 ^ 256) % modulus))) ∧
    exec (.frommont rd rs) s = .next (s.withResult rd (BitVec.ofNat 256 ((x.toNat * rInv) % modulus)))

/-- The laws of the Montgomery engine on canonical operands: both round trips, the homomorphism, the agreement of the
Barrett and the Montgomery path, the mixed shortcut, commutativity, and that addition commutes with the domain
(43_montgomery.md R178). -/
def Obligations.MontgomeryLaws : Prop :=
  ∀ a b : U256, a.toNat < modulus → b.toNat < modulus →
    fromMont (toMont a) = a ∧ toMont (fromMont a) = a ∧
    montMul (toMont a) (toMont b) = toMont (bmul a b) ∧
    fromMont (montMul (toMont a) (toMont b)) = bmul a b ∧
    montMul (toMont a) b = bmul a b ∧
    montMul a b = montMul b a ∧
    fieldAdd (toMont a) (toMont b) = toMont (fieldAdd a b)

/-- `POW` with a canonical base writes `b^e mod P` for every 256-bit exponent, with `b^0 = 1`, and changes nothing else
(44_exp_inv.md R190, R191). -/
def Obligations.PowRaisesToThePower : Prop :=
  ∀ (s : State) (rd rs1 rs2 : FReg) (b e : U256), s.source rs1 = some b → s.source rs2 = some e →
    b.toNat < modulus →
    exec (.pow rd rs1 rs2) s = .next (s.withResult rd (BitVec.ofNat 256 (b.toNat ^ e.toNat % modulus)))

/-- `INV` on a canonical operand writes `x^(P-2) mod P`, which the chain in Montgomery space computes, and changes nothing
else (44_exp_inv.md R196, R197, R198). -/
def Obligations.InvComputesTheFermatPower : Prop :=
  ∀ (s : State) (rd rs : FReg) (x : U256), s.source rs = some x → x.toNat < modulus →
    exec (.inv rd rs) s = .next (s.withResult rd (BitVec.ofNat 256 (x.toNat ^ (modulus - 2) % modulus)))

/-- The inverse is one: `x * INV(x) = 1` for canonical `x` other than 0, `INV(0) = 0`, inverting twice gives `x` back, and
`INV` agrees with the generic power (44_exp_inv.md R196, R198, R200; 95_test_vectors.md section 1.1). -/
def Obligations.InverseLaws : Prop :=
  ∀ x : U256, x.toNat < modulus →
    (x ≠ 0#256 → bmul x (invFermat x) = 1#256 ∧ powBarrett x (romP - 1#256) = 1#256) ∧
    invFermat 0#256 = 0#256 ∧
    invFermat (invFermat x) = x ∧
    invFermat x = powBarrett x (romP - 2#256)

/-! ## Sampling, moves, free values -/

/-- A draw step of `RAND` takes four entropy words, the first as limb 0; where the raw value is below `5P` it writes the
raw value modulo `P` and completes, and otherwise it changes nothing but the entropy stream (45_sampling.md R211,
R212, R213, R214). -/
def Obligations.RandDrawsFourWords : Prop :=
  ∀ (s : State) (rd : FReg) (w0 w1 w2 w3 : U64) (rest : List U64), s.entropy = w0 :: w1 :: w2 :: w3 :: rest →
    let raw := w0.toNat + 2 ^ 64 * w1.toNat + 2 ^ 128 * w2.toNat + 2 ^ 192 * w3.toNat
    (raw < 5 * modulus → exec (.rand rd) s =
      .next { s.withResult rd (BitVec.ofNat 256 (raw % modulus)) with entropy := rest, entropyPos := s.entropyPos + 4 }) ∧
    (5 * modulus ≤ raw → exec (.rand rd) s =
      .next { s with entropy := rest, entropyPos := s.entropyPos + 4 })

/-- With fewer than four entropy words available `RAND` waits: nothing changes (45_sampling.md R213, R215). That a wait
is a step which changes nothing is the model's choice (notes/assumptions/12.md). -/
def Obligations.RandWaitsForEntropy : Prop :=
  ∀ (s : State) (rd : FReg), s.entropy.length < 4 → exec (.rand rd) s = .next s

/-- The sampler accepts only canonical values, and accepts the value `v` exactly from the five raw values `v + k * P`,
`k` from 0 to 4 (45_sampling.md R212). -/
def Obligations.AcceptedValueHasFiveRawValues : Prop :=
  ∀ raw v : U256, sample raw = some v ↔
    v.toNat < modulus ∧ ∃ k, k ≤ 4 ∧ raw.toNat = v.toNat + k * modulus

/-- `NOP` ends in phase IDLE and changes nothing else (46_move_system.md R220). -/
def Obligations.NopOnlyCompletes : Prop :=
  ∀ s : State, exec .nop s = .next { s with busy := false }

/-- `FMOV` copies the pattern of a written register whatever it is; the copy of an unwritten register is unwritten; a move
of a register to itself changes no register; nothing else changes (46_move_system.md R221, 30_encoding.md R105). -/
def Obligations.FmovCopiesThePattern : Prop :=
  ∀ (s : State) (rd rs : FReg), ∃ t, exec (.fmov rd rs) s = .next t ∧
    (∀ x, s.source rs = some x → t = s.withResult rd x) ∧
    (s.source rs = none → t.source rd = none) ∧
    (rd = rs → t = { s with busy := false }) ∧
    (∃ c, t = { s with regs := s.regs.put rd c, busy := false })

/-- `FLDC` writes the constant its selector names and changes nothing else (46_move_system.md R222, 10_state.md R37). A
selector of 6 or more, which the decoder never gives, stops by name (notes/assumptions/18.md). -/
def Obligations.FldcLoadsTheConstant : Prop :=
  ∀ (s : State) (rd : FReg),
    exec (.fldc rd 0#4) s = .next (s.withResult rd 0#256) ∧
    exec (.fldc rd 1#4) s = .next (s.withResult rd 1#256) ∧
    exec (.fldc rd 2#4) s = .next (s.withResult rd
      0x30644e72e131a029b85045b68181585d2833e84879b9709143e1f593f0000001#256) ∧
    exec (.fldc rd 3#4) s = .next (s.withResult rd
      0x54a47462623a04a7ab074a58680730147144852009e880ae620703a6be1de925#256) ∧
    exec (.fldc rd 4#4) s = .next (s.withResult rd
      0x73f82f1d0d8341b2e39a9828990623916586864b4c6911b3c2e1f593efffffff#256) ∧
    exec (.fldc rd 5#4) s = .next (s.withResult rd
      0x0216d0b17f4e44a58c49833d53bb808553fe3ab1e35c59e31bb8e645ae216da7#256) ∧
    ∀ c : BitVec 4, 6 ≤ c.toNat → exec (.fldc rd c) s = .refused .reservedSelector

/-- Every modular command with an out-of-domain operand completes, records no fault, writes no flag and leaves a free
value in `fd` (41_additive.md R143, 42_barrett.md R157, 43_montgomery.md R180, 44_exp_inv.md R192, R199). The
statement holds whatever the free value is. -/
def Obligations.OutOfDomainOperandsGiveAFreeValue : Prop :=
  ∀ (s : State) (rd rs1 rs2 : FReg) (x y : U256), s.source rs1 = some x → s.source rs2 = some y →
    (modulus ≤ x.toNat ∨ modulus ≤ y.toNat →
      exec (.fadd rd rs1 rs2) s = .next (s.withFreeResult rd) ∧
      exec (.fsub rd rs1 rs2) s = .next (s.withFreeResult rd) ∧
      exec (.bmul rd rs1 rs2) s = .next (s.withFreeResult rd) ∧
      exec (.mmul rd rs1 rs2) s = .next (s.withFreeResult rd)) ∧
    (modulus ≤ x.toNat →
      exec (.fneg rd rs1) s = .next (s.withFreeResult rd) ∧
      exec (.bsqr rd rs1) s = .next (s.withFreeResult rd) ∧
      exec (.msqr rd rs1) s = .next (s.withFreeResult rd) ∧
      exec (.tomont rd rs1) s = .next (s.withFreeResult rd) ∧
      exec (.frommont rd rs1) s = .next (s.withFreeResult rd) ∧
      exec (.pow rd rs1 rs2) s = .next (s.withFreeResult rd) ∧
      exec (.inv rd rs1) s = .next (s.withFreeResult rd))

/-- A command that reads an unwritten register completes: its destination becomes unwritten, its flag a free bit, and
nothing else changes (93_implementation_defined.md U1, 10_state.md R50). That this covers every command that computes
from the register, and the flags of `WADD` and `WSUB`, is the model's reading (notes/assumptions/5.md). -/
def Obligations.UnwrittenSourcesGiveUnwrittenResults : Prop :=
  ∀ (s : State) (rd rs1 rs2 : FReg),
    (s.source rs1 = none →
      exec (.chkovf rs1) s = .next (s.withFreeFlag .ovf) ∧
      exec (.fixovf rd rs1) s = .next (s.withUnwrittenResult rd) ∧
      exec (.fixunf rd rs1) s = .next (s.withUnwrittenResult rd) ∧
      exec (.fneg rd rs1) s = .next (s.withUnwrittenResult rd) ∧
      exec (.bsqr rd rs1) s = .next (s.withUnwrittenResult rd) ∧
      exec (.msqr rd rs1) s = .next (s.withUnwrittenResult rd) ∧
      exec (.tomont rd rs1) s = .next (s.withUnwrittenResult rd) ∧
      exec (.frommont rd rs1) s = .next (s.withUnwrittenResult rd) ∧
      exec (.inv rd rs1) s = .next (s.withUnwrittenResult rd)) ∧
    (s.source rs1 = none ∨ s.source rs2 = none →
      exec (.feq rs1 rs2) s = .next (s.withFreeFlag .eq) ∧
      exec (.fadd rd rs1 rs2) s = .next (s.withUnwrittenResult rd) ∧
      exec (.fsub rd rs1 rs2) s = .next (s.withUnwrittenResult rd) ∧
      exec (.bmul rd rs1 rs2) s = .next (s.withUnwrittenResult rd) ∧
      exec (.mmul rd rs1 rs2) s = .next (s.withUnwrittenResult rd) ∧
      exec (.pow rd rs1 rs2) s = .next (s.withUnwrittenResult rd) ∧
      exec (.wadd rd rs1 rs2) s = .next ((s.withFreeFlag .cry).withUnwrittenResult rd) ∧
      exec (.wsub rd rs1 rs2) s = .next ((s.withFreeFlag .brw).withUnwrittenResult rd))

/-! ## The status register and the latch -/

/-- What alone changes `STATUS` and `CMDLATCH`, for every step of every agent. A reset leaves `BUSY`, `FAULT` and
`CAUSE` 0 (70_reset_and_hazards.md R260). Any other step sets `BUSY` only by accepting a command, clears it only by the
engine's completion of the latched command, changes the latch only by accepting a command, whose word it then holds,
and changes `FAULT` or `CAUSE` only by recording the first fault, with the code of a cause the table names for that
access (10_state.md R40, R47; 20_memory.md R76; 30_encoding.md R99, R100; 60_exceptions.md R231, R233). In phase IDLE
out of reset the engine's turn changes nothing, and a word the entropy source supplies joins the end of the stream and
nothing else changes (30_encoding.md R100; 45_sampling.md R210). The agenda and its empty case are the model's choice
(notes/assumptions/6.md), as the list of available words is (notes/assumptions/11.md). -/
def Obligations.StatusAndLatchChangeOnlyByTheirSteps : Prop :=
  ∀ s : State,
    (∀ t, step s = .next t →
      (s.nextIsReset = true → t.busy = false ∧ t.fault = false ∧ t.cause = 0#4) ∧
      (s.nextIsReset = false →
        (s.busy = false → t.busy = true → ∃ w, s.accepts w ∧ t.cmdLatch = w.setWidth 32) ∧
        (s.busy = true → t.busy = false → s.engineTurn = true ∧ s.resetHeld = false ∧
          ∃ i, latchedCommand s.cmdLatch = some i ∧ exec i { s with agenda := s.agenda.tail } = .next t) ∧
        (t.cmdLatch ≠ s.cmdLatch → ∃ w, s.accepts w ∧ t.cmdLatch = w.setWidth 32 ∧ t.busy = true) ∧
        (t.fault ≠ s.fault ∨ t.cause ≠ s.cause →
          s.fault = false ∧ t.fault = true ∧ ∃ c, s.violates c ∧ t.cause = causeCode c))) ∧
    (s.busy = false → s.resetHeld = false →
      (s.agenda = [] → step s = .next s) ∧
      (∀ rest, s.agenda = .engine :: rest → step s = .next { s with agenda := rest })) ∧
    (∀ w rest, s.agenda = .entropy w :: rest →
      step s = .next { s with agenda := rest, entropy := s.entropy ++ [w] })
end

