-- ==== Sys2Proof/Laws/Limbs.lean ====
section
/-! SUPPORT. The limbs of an element determine it, and a write of one limb leaves the others (00_scope.md R13,
20_memory.md R66). -/

namespace Sys2Proof.Machine

/-- Bit `k` of limb 0, 1, 2 or 3 is bit `k`, `64 + k`, `128 + k` or `192 + k` of the element. -/
theorem limb_getLsbD (v : U256) (j : LimbIx) (k : Nat) (hk : k < 64) :
    (limb v j).getLsbD k = v.getLsbD (64 * limbIndex j + k) := by
  simp only [limb, BitVec.getLsbD_extractLsb', hk, decide_true, Bool.true_and]

/-- The bits of an element put together from limbs. -/
theorem ofLimbs_getLsbD (a b c d : U64) (k : Nat) :
    (ofLimbs a b c d).getLsbD k =
      if k < 64 then a.getLsbD k
      else if k < 128 then b.getLsbD (k - 64)
      else if k < 192 then c.getLsbD (k - 128)
      else d.getLsbD (k - 192) := by
  unfold ofLimbs
  by_cases h0 : k < 64
  · simp only [BitVec.getLsbD_append, h0, if_true]
  · by_cases h1 : k < 128
    · have : k - 64 < 64 := by omega
      simp only [BitVec.getLsbD_append, h0, h1, this, if_true, if_false]
    · by_cases h2 : k < 192
      · have e1 : ¬ k - 64 < 64 := by omega
        have e2 : k - 64 - 64 < 64 := by omega
        have e3 : k - 64 - 64 = k - 128 := by omega
        simp only [BitVec.getLsbD_append, h0, h1, h2, e1, e2, if_true, if_false]
        rw [e3]
      · have e1 : ¬ k - 64 < 64 := by omega
        have e2 : ¬ k - 64 - 64 < 64 := by omega
        have e3 : k - 64 - 64 - 64 = k - 192 := by omega
        simp only [BitVec.getLsbD_append, h0, h1, h2, e1, e2, if_false]
        rw [e3]

/-- The limbs of an element put together from limbs. -/
theorem limb_ofLimbs (a b c d : U64) :
    limb (ofLimbs a b c d) .l0 = a ∧ limb (ofLimbs a b c d) .l1 = b ∧
    limb (ofLimbs a b c d) .l2 = c ∧ limb (ofLimbs a b c d) .l3 = d := by
  have key : ∀ j k, k < 64 → (limb (ofLimbs a b c d) j).getLsbD k =
      (match j with | .l0 => a | .l1 => b | .l2 => c | .l3 => d).getLsbD k := by
    intro j k hk
    rw [limb_getLsbD _ _ _ hk, ofLimbs_getLsbD]
    obtain ⟨n, hn⟩ : ∃ n, n = 64 * limbIndex j + k := ⟨_, rfl⟩
    rw [← hn]
    cases j <;> simp only [limbIndex] at hn <;> subst hn
    · rw [if_pos (by omega)]; exact congrArg (BitVec.getLsbD _) (by omega)
    · rw [if_neg (by omega), if_pos (by omega)]; exact congrArg (BitVec.getLsbD _) (by omega)
    · rw [if_neg (by omega), if_neg (by omega), if_pos (by omega)]; exact congrArg (BitVec.getLsbD _) (by omega)
    · rw [if_neg (by omega), if_neg (by omega), if_neg (by omega)]; exact congrArg (BitVec.getLsbD _) (by omega)
  exact ⟨BitVec.eq_of_getLsbD_eq fun k hk => key .l0 k hk, BitVec.eq_of_getLsbD_eq fun k hk => key .l1 k hk,
    BitVec.eq_of_getLsbD_eq fun k hk => key .l2 k hk, BitVec.eq_of_getLsbD_eq fun k hk => key .l3 k hk⟩

/-- An element is put together from its own limbs. -/
theorem ofLimbs_limb (v : U256) : ofLimbs (limb v .l0) (limb v .l1) (limb v .l2) (limb v .l3) = v := by
  apply BitVec.eq_of_getLsbD_eq
  intro k hk
  rw [ofLimbs_getLsbD]
  by_cases h0 : k < 64
  · rw [if_pos h0, limb_getLsbD _ _ _ h0]; exact congrArg (BitVec.getLsbD _) (by simp only [limbIndex]; omega)
  · by_cases h1 : k < 128
    · rw [if_neg h0, if_pos h1, limb_getLsbD _ _ _ (by omega)]; exact congrArg (BitVec.getLsbD _) (by simp only [limbIndex]; omega)
    · by_cases h2 : k < 192
      · rw [if_neg h0, if_neg h1, if_pos h2, limb_getLsbD _ _ _ (by omega)]; exact congrArg (BitVec.getLsbD _) (by simp only [limbIndex]; omega)
      · rw [if_neg h0, if_neg h1, if_neg h2, limb_getLsbD _ _ _ (by omega)]; exact congrArg (BitVec.getLsbD _) (by simp only [limbIndex]; omega)

/-- A write of one limb: that limb reads as written, every other as before. -/
@[simp] theorem limb_setLimb (v : U256) (i j : LimbIx) (w : U64) :
    limb (setLimb v i w) j = if j = i then w else limb v j := by
  have key := fun a b c d => limb_ofLimbs a b c d
  cases i <;> cases j <;> simp only [setLimb, key, reduceCtorEq, if_true, if_false]
end Sys2Proof.Machine
end

