-- ==== Sys2Proof/Laws/State.lean ====
section
/-! SUPPORT. One lemma per field per update of State, true by rfl, so that no later proof unfolds a record update. -/

namespace Sys2Proof.Machine

/-! ## putCell -/

@[simp] theorem State.putCell_regs (s : State) (i : FReg) (c : Cell) : (s.putCell i c).regs = s.regs.put i c := rfl
@[simp] theorem State.putCell_flags (s : State) (i : FReg) (c : Cell) : (s.putCell i c).flags = s.flags := rfl
@[simp] theorem State.putCell_busy (s : State) (i : FReg) (c : Cell) : (s.putCell i c).busy = s.busy := rfl
@[simp] theorem State.putCell_fault (s : State) (i : FReg) (c : Cell) : (s.putCell i c).fault = s.fault := rfl
@[simp] theorem State.putCell_cause (s : State) (i : FReg) (c : Cell) : (s.putCell i c).cause = s.cause := rfl
@[simp] theorem State.putCell_cmdLatch (s : State) (i : FReg) (c : Cell) : (s.putCell i c).cmdLatch = s.cmdLatch := rfl
@[simp] theorem State.putCell_entropy (s : State) (i : FReg) (c : Cell) : (s.putCell i c).entropy = s.entropy := rfl
@[simp] theorem State.putCell_entropyPos (s : State) (i : FReg) (c : Cell) : (s.putCell i c).entropyPos = s.entropyPos := rfl
@[simp] theorem State.putCell_resetHeld (s : State) (i : FReg) (c : Cell) : (s.putCell i c).resetHeld = s.resetHeld := rfl
@[simp] theorem State.putCell_baseBlock (s : State) (i : FReg) (c : Cell) : (s.putCell i c).baseBlock = s.baseBlock := rfl
@[simp] theorem State.putCell_agenda (s : State) (i : FReg) (c : Cell) : (s.putCell i c).agenda = s.agenda := rfl
@[simp] theorem State.putCell_replies (s : State) (i : FReg) (c : Cell) : (s.putCell i c).replies = s.replies := rfl
@[simp] theorem State.putCell_draws (s : State) (i : FReg) (c : Cell) : (s.putCell i c).draws = s.draws := rfl

/-! ## writeReg -/

@[simp] theorem State.writeReg_regs (s : State) (i : FReg) (v : U256) : (s.writeReg i v).regs = s.regs.put i (Cell.written v) := rfl
@[simp] theorem State.writeReg_flags (s : State) (i : FReg) (v : U256) : (s.writeReg i v).flags = s.flags := rfl
@[simp] theorem State.writeReg_busy (s : State) (i : FReg) (v : U256) : (s.writeReg i v).busy = s.busy := rfl
@[simp] theorem State.writeReg_fault (s : State) (i : FReg) (v : U256) : (s.writeReg i v).fault = s.fault := rfl
@[simp] theorem State.writeReg_cause (s : State) (i : FReg) (v : U256) : (s.writeReg i v).cause = s.cause := rfl
@[simp] theorem State.writeReg_cmdLatch (s : State) (i : FReg) (v : U256) : (s.writeReg i v).cmdLatch = s.cmdLatch := rfl
@[simp] theorem State.writeReg_entropy (s : State) (i : FReg) (v : U256) : (s.writeReg i v).entropy = s.entropy := rfl
@[simp] theorem State.writeReg_entropyPos (s : State) (i : FReg) (v : U256) : (s.writeReg i v).entropyPos = s.entropyPos := rfl
@[simp] theorem State.writeReg_resetHeld (s : State) (i : FReg) (v : U256) : (s.writeReg i v).resetHeld = s.resetHeld := rfl
@[simp] theorem State.writeReg_baseBlock (s : State) (i : FReg) (v : U256) : (s.writeReg i v).baseBlock = s.baseBlock := rfl
@[simp] theorem State.writeReg_agenda (s : State) (i : FReg) (v : U256) : (s.writeReg i v).agenda = s.agenda := rfl
@[simp] theorem State.writeReg_replies (s : State) (i : FReg) (v : U256) : (s.writeReg i v).replies = s.replies := rfl
@[simp] theorem State.writeReg_draws (s : State) (i : FReg) (v : U256) : (s.writeReg i v).draws = s.draws := rfl

/-! ## unwriteReg -/

@[simp] theorem State.unwriteReg_regs (s : State) (i : FReg) : (s.unwriteReg i).regs = s.regs.put i Cell.unwritten := rfl
@[simp] theorem State.unwriteReg_flags (s : State) (i : FReg) : (s.unwriteReg i).flags = s.flags := rfl
@[simp] theorem State.unwriteReg_busy (s : State) (i : FReg) : (s.unwriteReg i).busy = s.busy := rfl
@[simp] theorem State.unwriteReg_fault (s : State) (i : FReg) : (s.unwriteReg i).fault = s.fault := rfl
@[simp] theorem State.unwriteReg_cause (s : State) (i : FReg) : (s.unwriteReg i).cause = s.cause := rfl
@[simp] theorem State.unwriteReg_cmdLatch (s : State) (i : FReg) : (s.unwriteReg i).cmdLatch = s.cmdLatch := rfl
@[simp] theorem State.unwriteReg_entropy (s : State) (i : FReg) : (s.unwriteReg i).entropy = s.entropy := rfl
@[simp] theorem State.unwriteReg_entropyPos (s : State) (i : FReg) : (s.unwriteReg i).entropyPos = s.entropyPos := rfl
@[simp] theorem State.unwriteReg_resetHeld (s : State) (i : FReg) : (s.unwriteReg i).resetHeld = s.resetHeld := rfl
@[simp] theorem State.unwriteReg_baseBlock (s : State) (i : FReg) : (s.unwriteReg i).baseBlock = s.baseBlock := rfl
@[simp] theorem State.unwriteReg_agenda (s : State) (i : FReg) : (s.unwriteReg i).agenda = s.agenda := rfl
@[simp] theorem State.unwriteReg_replies (s : State) (i : FReg) : (s.unwriteReg i).replies = s.replies := rfl
@[simp] theorem State.unwriteReg_draws (s : State) (i : FReg) : (s.unwriteReg i).draws = s.draws := rfl

/-! ## writeFlag -/

@[simp] theorem State.writeFlag_regs (s : State) (k : Flag) (b : Bool) : (s.writeFlag k b).regs = s.regs := rfl
@[simp] theorem State.writeFlag_flags (s : State) (k : Flag) (b : Bool) : (s.writeFlag k b).flags = s.flags.put k b := rfl
@[simp] theorem State.writeFlag_busy (s : State) (k : Flag) (b : Bool) : (s.writeFlag k b).busy = s.busy := rfl
@[simp] theorem State.writeFlag_fault (s : State) (k : Flag) (b : Bool) : (s.writeFlag k b).fault = s.fault := rfl
@[simp] theorem State.writeFlag_cause (s : State) (k : Flag) (b : Bool) : (s.writeFlag k b).cause = s.cause := rfl
@[simp] theorem State.writeFlag_cmdLatch (s : State) (k : Flag) (b : Bool) : (s.writeFlag k b).cmdLatch = s.cmdLatch := rfl
@[simp] theorem State.writeFlag_entropy (s : State) (k : Flag) (b : Bool) : (s.writeFlag k b).entropy = s.entropy := rfl
@[simp] theorem State.writeFlag_entropyPos (s : State) (k : Flag) (b : Bool) : (s.writeFlag k b).entropyPos = s.entropyPos := rfl
@[simp] theorem State.writeFlag_resetHeld (s : State) (k : Flag) (b : Bool) : (s.writeFlag k b).resetHeld = s.resetHeld := rfl
@[simp] theorem State.writeFlag_baseBlock (s : State) (k : Flag) (b : Bool) : (s.writeFlag k b).baseBlock = s.baseBlock := rfl
@[simp] theorem State.writeFlag_agenda (s : State) (k : Flag) (b : Bool) : (s.writeFlag k b).agenda = s.agenda := rfl
@[simp] theorem State.writeFlag_replies (s : State) (k : Flag) (b : Bool) : (s.writeFlag k b).replies = s.replies := rfl
@[simp] theorem State.writeFlag_draws (s : State) (k : Flag) (b : Bool) : (s.writeFlag k b).draws = s.draws := rfl

/-! ## countDraw -/

@[simp] theorem State.countDraw_regs (s : State) : (s.countDraw).regs = s.regs := rfl
@[simp] theorem State.countDraw_flags (s : State) : (s.countDraw).flags = s.flags := rfl
@[simp] theorem State.countDraw_busy (s : State) : (s.countDraw).busy = s.busy := rfl
@[simp] theorem State.countDraw_fault (s : State) : (s.countDraw).fault = s.fault := rfl
@[simp] theorem State.countDraw_cause (s : State) : (s.countDraw).cause = s.cause := rfl
@[simp] theorem State.countDraw_cmdLatch (s : State) : (s.countDraw).cmdLatch = s.cmdLatch := rfl
@[simp] theorem State.countDraw_entropy (s : State) : (s.countDraw).entropy = s.entropy := rfl
@[simp] theorem State.countDraw_entropyPos (s : State) : (s.countDraw).entropyPos = s.entropyPos := rfl
@[simp] theorem State.countDraw_resetHeld (s : State) : (s.countDraw).resetHeld = s.resetHeld := rfl
@[simp] theorem State.countDraw_baseBlock (s : State) : (s.countDraw).baseBlock = s.baseBlock := rfl
@[simp] theorem State.countDraw_agenda (s : State) : (s.countDraw).agenda = s.agenda := rfl
@[simp] theorem State.countDraw_replies (s : State) : (s.countDraw).replies = s.replies := rfl
@[simp] theorem State.countDraw_draws (s : State) : (s.countDraw).draws = s.draws + 1 := rfl

/-! ## toIdle -/

@[simp] theorem State.toIdle_regs (s : State) : (s.toIdle).regs = s.regs := rfl
@[simp] theorem State.toIdle_flags (s : State) : (s.toIdle).flags = s.flags := rfl
@[simp] theorem State.toIdle_busy (s : State) : (s.toIdle).busy = false := rfl
@[simp] theorem State.toIdle_fault (s : State) : (s.toIdle).fault = s.fault := rfl
@[simp] theorem State.toIdle_cause (s : State) : (s.toIdle).cause = s.cause := rfl
@[simp] theorem State.toIdle_cmdLatch (s : State) : (s.toIdle).cmdLatch = s.cmdLatch := rfl
@[simp] theorem State.toIdle_entropy (s : State) : (s.toIdle).entropy = s.entropy := rfl
@[simp] theorem State.toIdle_entropyPos (s : State) : (s.toIdle).entropyPos = s.entropyPos := rfl
@[simp] theorem State.toIdle_resetHeld (s : State) : (s.toIdle).resetHeld = s.resetHeld := rfl
@[simp] theorem State.toIdle_baseBlock (s : State) : (s.toIdle).baseBlock = s.baseBlock := rfl
@[simp] theorem State.toIdle_agenda (s : State) : (s.toIdle).agenda = s.agenda := rfl
@[simp] theorem State.toIdle_replies (s : State) : (s.toIdle).replies = s.replies := rfl
@[simp] theorem State.toIdle_draws (s : State) : (s.toIdle).draws = s.draws := rfl

/-! ## latchCommand -/

@[simp] theorem State.latchCommand_regs (s : State) (w : CmdWord) : (s.latchCommand w).regs = s.regs := rfl
@[simp] theorem State.latchCommand_flags (s : State) (w : CmdWord) : (s.latchCommand w).flags = s.flags := rfl
@[simp] theorem State.latchCommand_busy (s : State) (w : CmdWord) : (s.latchCommand w).busy = true := rfl
@[simp] theorem State.latchCommand_fault (s : State) (w : CmdWord) : (s.latchCommand w).fault = s.fault := rfl
@[simp] theorem State.latchCommand_cause (s : State) (w : CmdWord) : (s.latchCommand w).cause = s.cause := rfl
@[simp] theorem State.latchCommand_cmdLatch (s : State) (w : CmdWord) : (s.latchCommand w).cmdLatch = w := rfl
@[simp] theorem State.latchCommand_entropy (s : State) (w : CmdWord) : (s.latchCommand w).entropy = s.entropy := rfl
@[simp] theorem State.latchCommand_entropyPos (s : State) (w : CmdWord) : (s.latchCommand w).entropyPos = s.entropyPos := rfl
@[simp] theorem State.latchCommand_resetHeld (s : State) (w : CmdWord) : (s.latchCommand w).resetHeld = s.resetHeld := rfl
@[simp] theorem State.latchCommand_baseBlock (s : State) (w : CmdWord) : (s.latchCommand w).baseBlock = s.baseBlock := rfl
@[simp] theorem State.latchCommand_agenda (s : State) (w : CmdWord) : (s.latchCommand w).agenda = s.agenda := rfl
@[simp] theorem State.latchCommand_replies (s : State) (w : CmdWord) : (s.latchCommand w).replies = s.replies := rfl
@[simp] theorem State.latchCommand_draws (s : State) (w : CmdWord) : (s.latchCommand w).draws = s.draws := rfl

/-! ## consumeFour -/

@[simp] theorem State.consumeFour_regs (s : State) (rest : List U64) : (s.consumeFour rest).regs = s.regs := rfl
@[simp] theorem State.consumeFour_flags (s : State) (rest : List U64) : (s.consumeFour rest).flags = s.flags := rfl
@[simp] theorem State.consumeFour_busy (s : State) (rest : List U64) : (s.consumeFour rest).busy = s.busy := rfl
@[simp] theorem State.consumeFour_fault (s : State) (rest : List U64) : (s.consumeFour rest).fault = s.fault := rfl
@[simp] theorem State.consumeFour_cause (s : State) (rest : List U64) : (s.consumeFour rest).cause = s.cause := rfl
@[simp] theorem State.consumeFour_cmdLatch (s : State) (rest : List U64) : (s.consumeFour rest).cmdLatch = s.cmdLatch := rfl
@[simp] theorem State.consumeFour_entropy (s : State) (rest : List U64) : (s.consumeFour rest).entropy = rest := rfl
@[simp] theorem State.consumeFour_entropyPos (s : State) (rest : List U64) : (s.consumeFour rest).entropyPos = s.entropyPos + 4 := rfl
@[simp] theorem State.consumeFour_resetHeld (s : State) (rest : List U64) : (s.consumeFour rest).resetHeld = s.resetHeld := rfl
@[simp] theorem State.consumeFour_baseBlock (s : State) (rest : List U64) : (s.consumeFour rest).baseBlock = s.baseBlock := rfl
@[simp] theorem State.consumeFour_agenda (s : State) (rest : List U64) : (s.consumeFour rest).agenda = s.agenda := rfl
@[simp] theorem State.consumeFour_replies (s : State) (rest : List U64) : (s.consumeFour rest).replies = s.replies := rfl
@[simp] theorem State.consumeFour_draws (s : State) (rest : List U64) : (s.consumeFour rest).draws = s.draws := rfl

/-! ## supplyEntropy -/

@[simp] theorem State.supplyEntropy_regs (s : State) (w : U64) : (s.supplyEntropy w).regs = s.regs := rfl
@[simp] theorem State.supplyEntropy_flags (s : State) (w : U64) : (s.supplyEntropy w).flags = s.flags := rfl
@[simp] theorem State.supplyEntropy_busy (s : State) (w : U64) : (s.supplyEntropy w).busy = s.busy := rfl
@[simp] theorem State.supplyEntropy_fault (s : State) (w : U64) : (s.supplyEntropy w).fault = s.fault := rfl
@[simp] theorem State.supplyEntropy_cause (s : State) (w : U64) : (s.supplyEntropy w).cause = s.cause := rfl
@[simp] theorem State.supplyEntropy_cmdLatch (s : State) (w : U64) : (s.supplyEntropy w).cmdLatch = s.cmdLatch := rfl
@[simp] theorem State.supplyEntropy_entropy (s : State) (w : U64) : (s.supplyEntropy w).entropy = s.entropy ++ [w] := rfl
@[simp] theorem State.supplyEntropy_entropyPos (s : State) (w : U64) : (s.supplyEntropy w).entropyPos = s.entropyPos := rfl
@[simp] theorem State.supplyEntropy_resetHeld (s : State) (w : U64) : (s.supplyEntropy w).resetHeld = s.resetHeld := rfl
@[simp] theorem State.supplyEntropy_baseBlock (s : State) (w : U64) : (s.supplyEntropy w).baseBlock = s.baseBlock := rfl
@[simp] theorem State.supplyEntropy_agenda (s : State) (w : U64) : (s.supplyEntropy w).agenda = s.agenda := rfl
@[simp] theorem State.supplyEntropy_replies (s : State) (w : U64) : (s.supplyEntropy w).replies = s.replies := rfl
@[simp] theorem State.supplyEntropy_draws (s : State) (w : U64) : (s.supplyEntropy w).draws = s.draws := rfl

/-! ## record -/

@[simp] theorem State.record_regs (s : State) (r : Reply) : (s.record r).regs = s.regs := rfl
@[simp] theorem State.record_flags (s : State) (r : Reply) : (s.record r).flags = s.flags := rfl
@[simp] theorem State.record_busy (s : State) (r : Reply) : (s.record r).busy = s.busy := rfl
@[simp] theorem State.record_fault (s : State) (r : Reply) : (s.record r).fault = s.fault := rfl
@[simp] theorem State.record_cause (s : State) (r : Reply) : (s.record r).cause = s.cause := rfl
@[simp] theorem State.record_cmdLatch (s : State) (r : Reply) : (s.record r).cmdLatch = s.cmdLatch := rfl
@[simp] theorem State.record_entropy (s : State) (r : Reply) : (s.record r).entropy = s.entropy := rfl
@[simp] theorem State.record_entropyPos (s : State) (r : Reply) : (s.record r).entropyPos = s.entropyPos := rfl
@[simp] theorem State.record_resetHeld (s : State) (r : Reply) : (s.record r).resetHeld = s.resetHeld := rfl
@[simp] theorem State.record_baseBlock (s : State) (r : Reply) : (s.record r).baseBlock = s.baseBlock := rfl
@[simp] theorem State.record_agenda (s : State) (r : Reply) : (s.record r).agenda = s.agenda := rfl
@[simp] theorem State.record_replies (s : State) (r : Reply) : (s.record r).replies = r :: s.replies := rfl
@[simp] theorem State.record_draws (s : State) (r : Reply) : (s.record r).draws = s.draws := rfl

/-! ## toReset -/

@[simp] theorem State.toReset_regs (s : State) : (s.toReset).regs = State.reset.regs := rfl
@[simp] theorem State.toReset_flags (s : State) : (s.toReset).flags = State.reset.flags := rfl
@[simp] theorem State.toReset_busy (s : State) : (s.toReset).busy = State.reset.busy := rfl
@[simp] theorem State.toReset_fault (s : State) : (s.toReset).fault = State.reset.fault := rfl
@[simp] theorem State.toReset_cause (s : State) : (s.toReset).cause = State.reset.cause := rfl
@[simp] theorem State.toReset_cmdLatch (s : State) : (s.toReset).cmdLatch = State.reset.cmdLatch := rfl
@[simp] theorem State.toReset_entropy (s : State) : (s.toReset).entropy = s.entropy := rfl
@[simp] theorem State.toReset_entropyPos (s : State) : (s.toReset).entropyPos = s.entropyPos := rfl
@[simp] theorem State.toReset_resetHeld (s : State) : (s.toReset).resetHeld = s.resetHeld := rfl
@[simp] theorem State.toReset_baseBlock (s : State) : (s.toReset).baseBlock = s.baseBlock := rfl
@[simp] theorem State.toReset_agenda (s : State) : (s.toReset).agenda = s.agenda := rfl
@[simp] theorem State.toReset_replies (s : State) : (s.toReset).replies = s.replies := rfl
@[simp] theorem State.toReset_draws (s : State) : (s.toReset).draws = s.draws := rfl

/-! ## assertReset -/

@[simp] theorem State.assertReset_regs (s : State) : (s.assertReset).regs = State.reset.regs := rfl
@[simp] theorem State.assertReset_flags (s : State) : (s.assertReset).flags = State.reset.flags := rfl
@[simp] theorem State.assertReset_busy (s : State) : (s.assertReset).busy = State.reset.busy := rfl
@[simp] theorem State.assertReset_fault (s : State) : (s.assertReset).fault = State.reset.fault := rfl
@[simp] theorem State.assertReset_cause (s : State) : (s.assertReset).cause = State.reset.cause := rfl
@[simp] theorem State.assertReset_cmdLatch (s : State) : (s.assertReset).cmdLatch = State.reset.cmdLatch := rfl
@[simp] theorem State.assertReset_entropy (s : State) : (s.assertReset).entropy = s.entropy := rfl
@[simp] theorem State.assertReset_entropyPos (s : State) : (s.assertReset).entropyPos = s.entropyPos := rfl
@[simp] theorem State.assertReset_resetHeld (s : State) : (s.assertReset).resetHeld = true := rfl
@[simp] theorem State.assertReset_baseBlock (s : State) : (s.assertReset).baseBlock = s.baseBlock := rfl
@[simp] theorem State.assertReset_agenda (s : State) : (s.assertReset).agenda = s.agenda := rfl
@[simp] theorem State.assertReset_replies (s : State) : (s.assertReset).replies = s.replies := rfl
@[simp] theorem State.assertReset_draws (s : State) : (s.assertReset).draws = s.draws := rfl

/-! ## releaseReset -/

@[simp] theorem State.releaseReset_regs (s : State) : (s.releaseReset).regs = s.regs := rfl
@[simp] theorem State.releaseReset_flags (s : State) : (s.releaseReset).flags = s.flags := rfl
@[simp] theorem State.releaseReset_busy (s : State) : (s.releaseReset).busy = s.busy := rfl
@[simp] theorem State.releaseReset_fault (s : State) : (s.releaseReset).fault = s.fault := rfl
@[simp] theorem State.releaseReset_cause (s : State) : (s.releaseReset).cause = s.cause := rfl
@[simp] theorem State.releaseReset_cmdLatch (s : State) : (s.releaseReset).cmdLatch = s.cmdLatch := rfl
@[simp] theorem State.releaseReset_entropy (s : State) : (s.releaseReset).entropy = s.entropy := rfl
@[simp] theorem State.releaseReset_entropyPos (s : State) : (s.releaseReset).entropyPos = s.entropyPos := rfl
@[simp] theorem State.releaseReset_resetHeld (s : State) : (s.releaseReset).resetHeld = false := rfl
@[simp] theorem State.releaseReset_baseBlock (s : State) : (s.releaseReset).baseBlock = s.baseBlock := rfl
@[simp] theorem State.releaseReset_agenda (s : State) : (s.releaseReset).agenda = s.agenda := rfl
@[simp] theorem State.releaseReset_replies (s : State) : (s.releaseReset).replies = s.replies := rfl
@[simp] theorem State.releaseReset_draws (s : State) : (s.releaseReset).draws = s.draws := rfl

/-! ## readyToRun -/

@[simp] theorem State.readyToRun_regs (s : State) (w : CmdWord) : (s.readyToRun w).regs = s.regs := rfl
@[simp] theorem State.readyToRun_flags (s : State) (w : CmdWord) : (s.readyToRun w).flags = s.flags := rfl
@[simp] theorem State.readyToRun_busy (s : State) (w : CmdWord) : (s.readyToRun w).busy = true := rfl
@[simp] theorem State.readyToRun_fault (s : State) (w : CmdWord) : (s.readyToRun w).fault = s.fault := rfl
@[simp] theorem State.readyToRun_cause (s : State) (w : CmdWord) : (s.readyToRun w).cause = s.cause := rfl
@[simp] theorem State.readyToRun_cmdLatch (s : State) (w : CmdWord) : (s.readyToRun w).cmdLatch = w := rfl
@[simp] theorem State.readyToRun_entropy (s : State) (w : CmdWord) : (s.readyToRun w).entropy = s.entropy := rfl
@[simp] theorem State.readyToRun_entropyPos (s : State) (w : CmdWord) : (s.readyToRun w).entropyPos = s.entropyPos := rfl
@[simp] theorem State.readyToRun_resetHeld (s : State) (w : CmdWord) : (s.readyToRun w).resetHeld = false := rfl
@[simp] theorem State.readyToRun_baseBlock (s : State) (w : CmdWord) : (s.readyToRun w).baseBlock = s.baseBlock := rfl
@[simp] theorem State.readyToRun_agenda (s : State) (w : CmdWord) : (s.readyToRun w).agenda = engineFirst s.agenda := rfl
@[simp] theorem State.readyToRun_replies (s : State) (w : CmdWord) : (s.readyToRun w).replies = s.replies := rfl
@[simp] theorem State.readyToRun_draws (s : State) (w : CmdWord) : (s.readyToRun w).draws = s.draws := rfl

end Sys2Proof.Machine
end

