-- ==== Sys2Proof/Laws/Ops.lean ====
section
/-! SUPPORT. For each shared operation, once, what it can do: the registers, marks and flags, the recording of a fault,
the results of a command, the window, the accept step, the host's and the engine's steps. -/

namespace Sys2Proof.Machine

/-! ## Registers, marks and flags -/

@[simp] theorem RegFile.get_put (r : RegFile) (i j : FReg) (c : Cell) :
    (r.put i c).get j = if j = i then c else r.get j := by
  cases i <;> cases j <;> rfl

/-- Writing a register's own cell back changes nothing. -/
theorem RegFile.put_get (r : RegFile) (i : FReg) : r.put i (r.get i) = r := by
  cases i <;> rfl

@[simp] theorem State.putCell_cell (s : State) (i j : FReg) (c : Cell) :
    (s.putCell i c).cell j = if j = i then c else s.cell j :=
  RegFile.get_put s.regs i j c

@[simp] theorem LimbMarks.get_mark (m : LimbMarks) (j k : LimbIx) :
    (m.mark j).get k = if k = j then true else m.get k := by
  cases j <;> cases k <;> rfl

/-- A register is written exactly when each limb is. -/
theorem LimbMarks.all_iff (m : LimbMarks) : m.all = true ↔ ∀ j, m.get j = true := by
  constructor
  · intro h j
    simp only [LimbMarks.all, Bool.and_eq_true] at h
    cases j
    exacts [h.1.1.1, h.1.1.2, h.1.2, h.2]
  · intro h
    simp only [LimbMarks.all, Bool.and_eq_true]
    exact ⟨⟨⟨h .l0, h .l1⟩, h .l2⟩, h .l3⟩

@[simp] theorem Cell.written_get (v : U256) (j : LimbIx) : (Cell.written v).marks.get j = true := by
  cases j <;> rfl

@[simp] theorem Cell.written_value? (v : U256) : (Cell.written v).value? = some v := rfl

@[simp] theorem Cell.unwritten_get (j : LimbIx) : Cell.unwritten.marks.get j = false := by
  cases j <;> rfl

@[simp] theorem Cell.unwritten_value? : Cell.unwritten.value? = none := rfl

@[simp] theorem Cell.unwritten_limb? (j : LimbIx) : Cell.unwritten.limb? j = none := by
  cases j <;> rfl

@[simp] theorem FlagBits.get_put (f : FlagBits) (k m : Flag) (b : Bool) :
    (f.put k b).get m = if m = k then b else f.get m := by
  cases k <;> cases m <;> rfl

/-! ## Recording a fault (60_exceptions.md R233) -/

/-- `raise Fault(c)` either finds a fault recorded and changes nothing, or records the first one. -/
theorem State.raiseFault_cases (s : State) (c : Cause) :
    (s.fault = true ∧ s.raiseFault c = s) ∨
    (s.fault = false ∧ s.raiseFault c = { s with fault := true, cause := causeCode c }) := by
  cases h : s.fault
  · exact .inr ⟨rfl, by simp [State.raiseFault, h]⟩
  · exact .inl ⟨rfl, by simp [State.raiseFault, h]⟩

@[simp] theorem State.raiseFault_regs (s : State) (c : Cause) : (s.raiseFault c).regs = s.regs := by
  obtain ⟨_, h⟩ | ⟨_, h⟩ := s.raiseFault_cases c <;> rw [h]
@[simp] theorem State.raiseFault_flags (s : State) (c : Cause) : (s.raiseFault c).flags = s.flags := by
  obtain ⟨_, h⟩ | ⟨_, h⟩ := s.raiseFault_cases c <;> rw [h]
@[simp] theorem State.raiseFault_busy (s : State) (c : Cause) : (s.raiseFault c).busy = s.busy := by
  obtain ⟨_, h⟩ | ⟨_, h⟩ := s.raiseFault_cases c <;> rw [h]
@[simp] theorem State.raiseFault_fault (s : State) (c : Cause) : (s.raiseFault c).fault = true := by
  obtain ⟨hf, h⟩ | ⟨_, h⟩ := s.raiseFault_cases c <;> rw [h]
  exact hf
@[simp] theorem State.raiseFault_cmdLatch (s : State) (c : Cause) : (s.raiseFault c).cmdLatch = s.cmdLatch := by
  obtain ⟨_, h⟩ | ⟨_, h⟩ := s.raiseFault_cases c <;> rw [h]
@[simp] theorem State.raiseFault_entropy (s : State) (c : Cause) : (s.raiseFault c).entropy = s.entropy := by
  obtain ⟨_, h⟩ | ⟨_, h⟩ := s.raiseFault_cases c <;> rw [h]
@[simp] theorem State.raiseFault_entropyPos (s : State) (c : Cause) : (s.raiseFault c).entropyPos = s.entropyPos := by
  obtain ⟨_, h⟩ | ⟨_, h⟩ := s.raiseFault_cases c <;> rw [h]
@[simp] theorem State.raiseFault_resetHeld (s : State) (c : Cause) : (s.raiseFault c).resetHeld = s.resetHeld := by
  obtain ⟨_, h⟩ | ⟨_, h⟩ := s.raiseFault_cases c <;> rw [h]
@[simp] theorem State.raiseFault_baseBlock (s : State) (c : Cause) : (s.raiseFault c).baseBlock = s.baseBlock := by
  obtain ⟨_, h⟩ | ⟨_, h⟩ := s.raiseFault_cases c <;> rw [h]
@[simp] theorem State.raiseFault_agenda (s : State) (c : Cause) : (s.raiseFault c).agenda = s.agenda := by
  obtain ⟨_, h⟩ | ⟨_, h⟩ := s.raiseFault_cases c <;> rw [h]
@[simp] theorem State.raiseFault_replies (s : State) (c : Cause) : (s.raiseFault c).replies = s.replies := by
  obtain ⟨_, h⟩ | ⟨_, h⟩ := s.raiseFault_cases c <;> rw [h]
@[simp] theorem State.raiseFault_draws (s : State) (c : Cause) : (s.raiseFault c).draws = s.draws := by
  obtain ⟨_, h⟩ | ⟨_, h⟩ := s.raiseFault_cases c <;> rw [h]

/-! ## The result of a command -/

/-- The one cell a result puts in `fd`, and whether a draw was taken. -/
theorem State.writeResult_cases (s : State) (rd : FReg) (r : FieldResult) :
    (∃ v, r = .value v ∧ s.writeResult rd r = s.writeReg rd v) ∨
    (r = .draw ∧ s.writeResult rd r = (s.writeReg rd (Config.drawU256 s.draws)).countDraw) ∨
    (r = .unwritten ∧ s.writeResult rd r = s.unwriteReg rd) := by
  cases r with
  | value v => exact .inl ⟨v, rfl, rfl⟩
  | draw => exact .inr (.inl ⟨rfl, rfl⟩)
  | unwritten => exact .inr (.inr ⟨rfl, rfl⟩)

/-- The one flag a flag result writes, and whether a draw was taken. -/
theorem State.writeFlagResult_cases (s : State) (k : Flag) (b : Option Bool) :
    (∃ v, b = some v ∧ s.writeFlagResult k b = s.writeFlag k v) ∨
    (b = none ∧ s.writeFlagResult k b = (s.writeFlag k (Config.drawU1 s.draws)).countDraw) := by
  cases b with
  | some v => exact .inl ⟨v, rfl, rfl⟩
  | none => exact .inr ⟨rfl, rfl⟩

/-- A completion that writes a register: one cell of `fd`, all written or all unwritten, `BUSY <- 0`, and no other
field of the machine. -/
theorem State.completeReg_frame (s : State) (rd : FReg) (r : FieldResult) :
    ∃ c n, (c = Cell.unwritten ∨ ∃ v, c = Cell.written v) ∧
      s.completeReg rd r = { s with regs := s.regs.put rd c, busy := false, draws := n } := by
  cases r with
  | value v => exact ⟨_, s.draws, .inr ⟨v, rfl⟩, rfl⟩
  | draw => exact ⟨_, s.draws + 1, .inr ⟨Config.drawU256 s.draws, rfl⟩, rfl⟩
  | unwritten => exact ⟨_, s.draws, .inl rfl, rfl⟩

/-- A completion that writes a flag: that flag, `BUSY <- 0`, and no other field of the machine. -/
theorem State.completeFlag_frame (s : State) (k : Flag) (b : Option Bool) :
    ∃ v n, s.completeFlag k b = { s with flags := s.flags.put k v, busy := false, draws := n } := by
  cases b with
  | some v => exact ⟨v, s.draws, rfl⟩
  | none => exact ⟨_, s.draws + 1, rfl⟩

/-- A completion that writes a register and a flag: those two, `BUSY <- 0`, and no other field of the machine. -/
theorem State.completeRegFlag_frame (s : State) (rd : FReg) (r : FieldResult) (k : Flag) (b : Option Bool) :
    ∃ c v n, (c = Cell.unwritten ∨ ∃ x, c = Cell.written x) ∧
      s.completeRegFlag rd r k b =
        { s with regs := s.regs.put rd c, flags := s.flags.put k v, busy := false, draws := n } := by
  cases r with
  | value v =>
    cases b with
    | some b => exact ⟨_, b, s.draws, .inr ⟨v, rfl⟩, rfl⟩
    | none => exact ⟨_, _, s.draws + 1, .inr ⟨v, rfl⟩, rfl⟩
  | draw =>
    cases b with
    | some b => exact ⟨_, b, s.draws + 1, .inr ⟨Config.drawU256 s.draws, rfl⟩, rfl⟩
    | none => exact ⟨_, _, s.draws + 1 + 1, .inr ⟨Config.drawU256 s.draws, rfl⟩, rfl⟩
  | unwritten =>
    cases b with
    | some b => exact ⟨_, b, s.draws, .inl rfl, rfl⟩
    | none => exact ⟨_, _, s.draws + 1, .inl rfl, rfl⟩

/-! ## The window -/

/-- The map of R64 at the offset of a window register. -/
theorem windowReg_windowOffset (r : WindowReg) : windowReg (windowOffset r) = some r := by
  cases r with
  | limb i j => cases i <;> cases j <;> decide
  | _ => rfl

/-- Every window register lies at an aligned offset of the window. -/
theorem windowOffset_bounds (r : WindowReg) : windowOffset r % 8 = 0 ∧ windowOffset r + 8 ≤ windowSize := by
  cases r with
  | limb i j => cases i <;> cases j <;> decide
  | _ => decide

/-- At an aligned offset the map names a register only at that register's own offset. -/
theorem windowOffset_of_windowReg {off : Nat} {r : WindowReg} (ha : off % 8 = 0) (hw : off + 8 ≤ windowSize)
    (h : windowReg off = some r) : off = windowOffset r := by
  have hk : ∀ k : Fin 64, (windowReg (8 * k.val)).all (fun r => 8 * k.val == windowOffset r) = true := by
    decide +kernel
  have hs : windowSize = 512 := rfl
  have h8 : 8 * (off / 8) = off := by omega
  have hall := hk ⟨off / 8, by omega⟩
  simp only [h8, h, Option.all_some, beq_iff_eq] at hall
  exact hall

/-- Byte `k` of a window register is byte `k` of its word (20_memory.md R62). -/
theorem windowByte_windowOffset (s : State) (r : WindowReg) {k : Nat} (hk : k < 8) :
    windowByte s (windowOffset r + k) = (windowWord s r).map (fun w => byteOf w k) := by
  have h8 := (windowOffset_bounds r).1
  have hm : (windowOffset r + k) % 8 = k := by omega
  simp only [windowByte, hm, Nat.add_sub_cancel, windowReg_windowOffset]

/-- A write of `w` to a window register, as the port sees it. -/
theorem busAccess_write (s : State) (r : WindowReg) (w : U64) :
    s.busAccess (.write (s.base + windowOffset r) 8 w) = .answered .done (s.busWrite r w) := by
  have hb := windowOffset_bounds r
  have h1 : ¬ (s.base + windowOffset r < s.base ∨ s.base + windowSize < s.base + windowOffset r + 8) := by omega
  have h2 : s.base + windowOffset r - s.base = windowOffset r := by omega
  simp only [State.busAccess, HostAccess.addr, HostAccess.size, if_neg h1, h2, windowReg_windowOffset, hb.1,
    State.perform, ne_eq, not_true_eq_false, if_false]

/-- A read of a window register, as the port sees it. -/
theorem busAccess_read (s : State) (r : WindowReg) :
    s.busAccess (.read (s.base + windowOffset r) 8) = .answered (.data (readData s r)) (s.afterRead r) := by
  have hb := windowOffset_bounds r
  have h1 : ¬ (s.base + windowOffset r < s.base ∨ s.base + windowSize < s.base + windowOffset r + 8) := by omega
  have h2 : s.base + windowOffset r - s.base = windowOffset r := by omega
  simp only [State.busAccess, HostAccess.addr, HostAccess.size, if_neg h1, h2, windowReg_windowOffset, hb.1,
    State.perform, ne_eq, not_true_eq_false, if_false]

/-- Every access that the port answers is a read or a write of one window register at its own offset. -/
theorem busAccess_answered {s : State} {a : HostAccess} {r : Reply} {t : State}
    (h : s.busAccess a = .answered r t) :
    ∃ reg, (a = .read (s.base + windowOffset reg) 8 ∧ r = .data (readData s reg) ∧ t = s.afterRead reg) ∨
      (∃ w, a = .write (s.base + windowOffset reg) 8 w ∧ r = .done ∧ t = s.busWrite reg w) := by
  simp only [State.busAccess] at h
  split at h
  · cases h
  · rename_i hin
    split at h
    · cases h
    · rename_i hsz
      split at h
      · cases h
      · rename_i hal
        split at h
        · cases h
        · rename_i reg hreg
          have hsz' : a.size = 8 := by omega
          have hoff := windowOffset_of_windowReg (by omega) (by omega) hreg
          refine ⟨reg, ?_⟩
          cases a with
          | read ad n =>
            simp only [HostAccess.addr, HostAccess.size] at *
            simp only [State.perform, AccessResult.answered.injEq] at h
            exact .inl ⟨by rw [hsz', ← hoff]; congr 1; omega, h.1.symm, h.2.symm⟩
          | write ad n w =>
            simp only [HostAccess.addr, HostAccess.size] at *
            simp only [State.perform, AccessResult.answered.injEq] at h
            exact .inr ⟨w, by rw [hsz', ← hoff]; congr 1; omega, h.1.symm, h.2.symm⟩

/-- What a write to `CMD` can do (30_encoding.md R99). -/
theorem State.acceptCommand_cases (s : State) (w : U64) :
    (s.fault = true ∧ s.acceptCommand w = s) ∨
    (s.fault = false ∧ s.busy = true ∧ s.acceptCommand w = s.raiseFault .busyViolation) ∨
    (s.fault = false ∧ s.busy = false ∧ ∃ c, decode w = .illegal c ∧ s.acceptCommand w = s.raiseFault c) ∨
    (s.fault = false ∧ s.busy = false ∧ ∃ i, decode w = .legal i ∧
      s.acceptCommand w = s.latchCommand (w.setWidth 32)) := by
  cases hf : s.fault
  · cases hb : s.busy
    · cases hd : decode w with
      | legal i => exact .inr (.inr (.inr ⟨rfl, rfl, i, rfl, by simp [State.acceptCommand, hf, hb, hd]⟩))
      | illegal c => exact .inr (.inr (.inl ⟨rfl, rfl, c, rfl, by simp [State.acceptCommand, hf, hb, hd]⟩))
    · exact .inr (.inl ⟨rfl, rfl, by simp [State.acceptCommand, hf, hb]⟩)
  · exact .inl ⟨rfl, by simp [State.acceptCommand, hf]⟩

/-- What a read of a window register can change: the fault of a limb read in phase BUSY, and the number of draws. -/
theorem State.afterRead_cases (s : State) (r : WindowReg) :
    s.afterRead r = s ∨ s.afterRead r = s.countDraw ∨ s.afterRead r = (s.raiseFault .busyViolation).countDraw := by
  cases r with
  | limb i j =>
    cases hb : s.busy
    · cases hl : (s.cell i).limb? j with
      | some w => exact .inl (by simp [State.afterRead, windowWord, State.readFault, hb, hl])
      | none => exact .inr (.inl (by simp [State.afterRead, windowWord, State.readFault, hb, hl]))
    · exact .inr (.inr (by simp [State.afterRead, windowWord, State.readFault, hb]))
  | _ => exact .inl rfl

/-! ## The steps -/

/-- A host step that answers a next state: the hard reset is released and the port answered. -/
theorem hostStep_next {a : HostAccess} {s t : State} (h : hostStep a s = .next t) :
    s.resetHeld = false ∧ ∃ r u, s.busAccess a = .answered r u ∧ t = u.record r := by
  cases hr : s.resetHeld
  · refine ⟨rfl, ?_⟩
    simp only [hostStep, hr] at h
    cases hb : s.busAccess a with
    | answered r u => rw [hb] at h; exact ⟨r, u, rfl, by cases h; rfl⟩
    | busError k => rw [hb] at h; cases h
    | outside => rw [hb] at h; cases h
  · simp [hostStep, hr] at h

/-- An engine step that answers a next state: nothing was enabled, or the latched command was run. -/
theorem engineStep_next {s t : State} (h : engineStep s = .next t) :
    ((s.busy = false ∨ s.resetHeld = true) ∧ t = s) ∨
    (s.busy = true ∧ s.resetHeld = false ∧ ∃ i, latchedCommand s.cmdLatch = some i ∧ exec i s = .next t) := by
  cases hb : s.busy
  · simp only [engineStep, hb] at h; exact .inl ⟨.inl rfl, by cases h; rfl⟩
  · cases hr : s.resetHeld
    · simp only [engineStep, hb, hr] at h
      cases hi : latchedCommand s.cmdLatch with
      | some i => rw [hi] at h; exact .inr ⟨rfl, rfl, i, rfl, h⟩
      | none => rw [hi] at h; cases h
    · simp only [engineStep, hb, hr] at h; exact .inl ⟨.inr rfl, by cases h; rfl⟩

/-- What a step can be: the engine's turn on an empty agenda, or the event at its head. -/
theorem step_cases (s : State) :
    (s.agenda = [] ∧ step s = engineStep s) ∨
    (∃ e rest, s.agenda = e :: rest ∧ step s = takeEvent e { s with agenda := rest }) := by
  cases h : s.agenda with
  | nil => exact .inl ⟨rfl, by simp [step, nextStep, h]⟩
  | cons e rest => exact .inr ⟨e, rest, rfl, by simp [step, nextStep, h]⟩

end Sys2Proof.Machine
end

