-- ==== Sys2Proof/Laws/PerInstr.lean ====
section
/-! SUPPORT. A statement about every command as syntax, proved per command: its word agrees with the opcode table's
mask and match (30_encoding.md R93, R97), as long as it is well formed. -/

namespace Sys2Proof.Laws

/-- The word of a well-formed command, ANDed with the mask of its format, is its match: every bit of `op`, of `zero`,
of an unused field and bit 3 of every used register field is the table's. -/
def EncodingMatchesTable.Statement (i : Instr) : Prop :=
  i.wf = true → encode i &&& i.opcode.format.mask = i.opcode.matchWord

/-- The field registers as a list, to check a fact about all of them by evaluation. -/
def allRegs : List FReg := [.f0, .f1, .f2, .f3, .f4, .f5, .f6, .f7]

theorem mem_allRegs (r : FReg) : r ∈ allRegs := by cases r <;> decide

theorem mem_allOpcodes (op : Opcode) : op ∈ Opcode.all := by cases op <;> decide

/-- The opcodes of format DSS (30_encoding.md R93). -/
def dssOpcodes : List Opcode := Opcode.all.filter (fun op => op.format = .dss)

/-- The mask of format DSS leaves only the opcode of a word with three registers. -/
theorem assemble_mask_dss (op : Opcode) (hop : op ∈ dssOpcodes) (rd rs1 rs2 : FReg) :
    assemble op rd.code rs1.code rs2.code &&& Format.dss.mask = op.matchWord := by
  have h : (dssOpcodes.all fun op => allRegs.all fun a => allRegs.all fun b => allRegs.all fun c =>
      assemble op a.code b.code c.code &&& Format.dss.mask == op.matchWord) = true := by decide +kernel
  simp only [List.all_eq_true, beq_iff_eq] at h
  exact h op hop rd (mem_allRegs rd) rs1 (mem_allRegs rs1) rs2 (mem_allRegs rs2)

/-- The mask of format DS leaves only the opcode of a word with a destination and one source. -/
theorem assemble_mask_ds (op : Opcode) (rd rs : FReg) :
    assemble op rd.code rs.code 0#4 &&& Format.ds.mask = op.matchWord := by
  have h : (Opcode.all.all fun op => allRegs.all fun a => allRegs.all fun b =>
      assemble op a.code b.code 0#4 &&& Format.ds.mask == op.matchWord) = true := by decide +kernel
  simp only [List.all_eq_true, beq_iff_eq] at h
  exact h op (mem_allOpcodes op) rd (mem_allRegs rd) rs (mem_allRegs rs)

/-- The mask of format SS leaves only the opcode of a word with two sources. -/
theorem assemble_mask_ss (rs1 rs2 : FReg) :
    assemble .feq 0#4 rs1.code rs2.code &&& Format.ss.mask = Opcode.matchWord .feq := by
  have h : (allRegs.all fun a => allRegs.all fun b =>
      assemble .feq 0#4 a.code b.code &&& Format.ss.mask == Opcode.matchWord .feq) = true := by decide +kernel
  simp only [List.all_eq_true, beq_iff_eq] at h
  exact h rs1 (mem_allRegs rs1) rs2 (mem_allRegs rs2)

theorem EncodingMatchesTable.nop : EncodingMatchesTable.Statement (.nop) := fun _ => rfl

theorem EncodingMatchesTable.fmov (rd rs : FReg) : EncodingMatchesTable.Statement (.fmov rd rs) :=
  fun _ => assemble_mask_ds .fmov rd rs

theorem EncodingMatchesTable.fldc (rd : FReg) (c : BitVec 4) : EncodingMatchesTable.Statement (.fldc rd c) := by
  intro h
  have hc : c.toNat ≤ 5 := by simpa [Instr.wf, selectorLegal] using h
  have hb : ([0#4, 1#4, 2#4, 3#4, 4#4, 5#4].all fun c => allRegs.all fun a =>
      assemble .fldc a.code c 0#4 &&& Format.dc.mask == Opcode.matchWord .fldc) = true := by decide +kernel
  have hm : c ∈ [0#4, 1#4, 2#4, 3#4, 4#4, 5#4] := by
    simp only [List.mem_cons, List.not_mem_nil, or_false, BitVec.toNat_eq, BitVec.toNat_ofNat]
    omega
  simp only [List.all_eq_true, beq_iff_eq] at hb
  exact hb c hm rd (mem_allRegs rd)

theorem EncodingMatchesTable.chkovf (rs : FReg) : EncodingMatchesTable.Statement (.chkovf rs) := by
  intro _; cases rs <;> rfl

theorem EncodingMatchesTable.fixovf (rd rs : FReg) : EncodingMatchesTable.Statement (.fixovf rd rs) :=
  fun _ => assemble_mask_ds .fixovf rd rs

theorem EncodingMatchesTable.fixunf (rd rs : FReg) : EncodingMatchesTable.Statement (.fixunf rd rs) :=
  fun _ => assemble_mask_ds .fixunf rd rs

theorem EncodingMatchesTable.feq (rs1 rs2 : FReg) : EncodingMatchesTable.Statement (.feq rs1 rs2) :=
  fun _ => assemble_mask_ss rs1 rs2

theorem EncodingMatchesTable.wadd (rd rs1 rs2 : FReg) : EncodingMatchesTable.Statement (.wadd rd rs1 rs2) :=
  fun _ => assemble_mask_dss .wadd (by decide) rd rs1 rs2

theorem EncodingMatchesTable.wsub (rd rs1 rs2 : FReg) : EncodingMatchesTable.Statement (.wsub rd rs1 rs2) :=
  fun _ => assemble_mask_dss .wsub (by decide) rd rs1 rs2

theorem EncodingMatchesTable.fadd (rd rs1 rs2 : FReg) : EncodingMatchesTable.Statement (.fadd rd rs1 rs2) :=
  fun _ => assemble_mask_dss .fadd (by decide) rd rs1 rs2

theorem EncodingMatchesTable.fsub (rd rs1 rs2 : FReg) : EncodingMatchesTable.Statement (.fsub rd rs1 rs2) :=
  fun _ => assemble_mask_dss .fsub (by decide) rd rs1 rs2

theorem EncodingMatchesTable.fneg (rd rs : FReg) : EncodingMatchesTable.Statement (.fneg rd rs) :=
  fun _ => assemble_mask_ds .fneg rd rs

theorem EncodingMatchesTable.bmul (rd rs1 rs2 : FReg) : EncodingMatchesTable.Statement (.bmul rd rs1 rs2) :=
  fun _ => assemble_mask_dss .bmul (by decide) rd rs1 rs2

theorem EncodingMatchesTable.bsqr (rd rs : FReg) : EncodingMatchesTable.Statement (.bsqr rd rs) :=
  fun _ => assemble_mask_ds .bsqr rd rs

theorem EncodingMatchesTable.mmul (rd rs1 rs2 : FReg) : EncodingMatchesTable.Statement (.mmul rd rs1 rs2) :=
  fun _ => assemble_mask_dss .mmul (by decide) rd rs1 rs2

theorem EncodingMatchesTable.msqr (rd rs : FReg) : EncodingMatchesTable.Statement (.msqr rd rs) :=
  fun _ => assemble_mask_ds .msqr rd rs

theorem EncodingMatchesTable.tomont (rd rs : FReg) : EncodingMatchesTable.Statement (.tomont rd rs) :=
  fun _ => assemble_mask_ds .tomont rd rs

theorem EncodingMatchesTable.frommont (rd rs : FReg) : EncodingMatchesTable.Statement (.frommont rd rs) :=
  fun _ => assemble_mask_ds .frommont rd rs

theorem EncodingMatchesTable.pow (rd rs1 rs2 : FReg) : EncodingMatchesTable.Statement (.pow rd rs1 rs2) :=
  fun _ => assemble_mask_dss .pow (by decide) rd rs1 rs2

theorem EncodingMatchesTable.inv (rd rs : FReg) : EncodingMatchesTable.Statement (.inv rd rs) :=
  fun _ => assemble_mask_ds .inv rd rs

theorem EncodingMatchesTable.rand (rd : FReg) : EncodingMatchesTable.Statement (.rand rd) := by
  intro _; cases rd <;> rfl

end Sys2Proof.Laws
end

