-- ==== Sys2Proof/Laws/Step.lean ====
section
/-! SUPPORT. What a step can be, once, for every invariant of the machine (20_memory.md R75): a reset, a step in which
nothing is enabled, a word of entropy, the release of the hard reset input, the latched command, a read, or a write
that is no reset. -/

namespace Sys2Proof.Machine

/-- The state a step works on: `s` after the head of its agenda, if there is one, has been taken. -/
def State.afterTurn (s : State) : State := { s with agenda := s.agenda.tail }

/-- With an empty agenda nothing is taken. -/
theorem State.afterTurn_of_nil {s : State} (h : s.agenda = []) : s.afterTurn = s := by
  cases s; cases h; rfl

/-- Taking the event at the head leaves the rest of the agenda. -/
theorem State.afterTurn_of_cons {s : State} {e : Event} {rest : List Event} (h : s.agenda = e :: rest) :
    s.afterTurn = { s with agenda := rest } := by
  simp [State.afterTurn, h]

@[simp] theorem State.afterTurn_regs (s : State) : s.afterTurn.regs = s.regs := rfl
@[simp] theorem State.afterTurn_flags (s : State) : s.afterTurn.flags = s.flags := rfl
@[simp] theorem State.afterTurn_busy (s : State) : s.afterTurn.busy = s.busy := rfl
@[simp] theorem State.afterTurn_fault (s : State) : s.afterTurn.fault = s.fault := rfl
@[simp] theorem State.afterTurn_cause (s : State) : s.afterTurn.cause = s.cause := rfl
@[simp] theorem State.afterTurn_cmdLatch (s : State) : s.afterTurn.cmdLatch = s.cmdLatch := rfl
@[simp] theorem State.afterTurn_entropy (s : State) : s.afterTurn.entropy = s.entropy := rfl
@[simp] theorem State.afterTurn_entropyPos (s : State) : s.afterTurn.entropyPos = s.entropyPos := rfl
@[simp] theorem State.afterTurn_resetHeld (s : State) : s.afterTurn.resetHeld = s.resetHeld := rfl
@[simp] theorem State.afterTurn_baseBlock (s : State) : s.afterTurn.baseBlock = s.baseBlock := rfl
@[simp] theorem State.afterTurn_agenda (s : State) : s.afterTurn.agenda = s.agenda.tail := rfl
@[simp] theorem State.afterTurn_replies (s : State) : s.afterTurn.replies = s.replies := rfl
@[simp] theorem State.afterTurn_draws (s : State) : s.afterTurn.draws = s.draws := rfl

/-- What a step that is no reset can be: its agent, its guard and the state it leads to. -/
inductive StepKind (s t : State) : Prop where
  | idle (h : t = s.afterTurn)
  | entropy (w : U64) (rest : List Event) (ha : s.agenda = .entropy w :: rest) (h : t = s.afterTurn.supplyEntropy w)
  | release (rest : List Event) (ha : s.agenda = .releaseReset :: rest) (h : t = s.afterTurn.releaseReset)
  | command (i : Instr) (turn : s.engineTurn = true) (hb : s.busy = true) (hr : s.resetHeld = false)
      (hl : latchedCommand s.cmdLatch = some i) (h : exec i s.afterTurn = .next t)
  | read (r : WindowReg) (rest : List Event) (hr : s.resetHeld = false)
      (ha : s.agenda = .host (.read (s.base + windowOffset r) 8) :: rest)
      (h : t = (s.afterTurn.afterRead r).record (.data (readData s.afterTurn r)))
  | write (r : WindowReg) (w : U64) (rest : List Event) (hr : s.resetHeld = false)
      (ha : s.agenda = .host (.write (s.base + windowOffset r) 8 w) :: rest) (hc : r = .ctrl → w.getLsbD 0 = false)
      (h : t = (s.afterTurn.busWrite r w).record .done)

/-- The engine's turn, as a step. -/
theorem stepKind_of_engineStep {s t : State} (turn : s.engineTurn = true) (h : engineStep s.afterTurn = .next t) :
    StepKind s t := by
  obtain ⟨_, rfl⟩ | ⟨hb, hr, i, hl, hx⟩ := engineStep_next h
  · exact .idle rfl
  · exact .command i turn hb hr hl hx

/-- A write of `CTRL` with bit 0 set is a soft reset, and no other write is. -/
theorem isSoftReset_write (s : State) (r : WindowReg) (w : U64) :
    s.isSoftReset (.host (.write (s.base + windowOffset r) 8 w)) = true ↔ r = .ctrl ∧ w.getLsbD 0 = true := by
  have hoff : windowOffset r = 0x018 ↔ r = .ctrl := by
    constructor
    · intro h
      have hr := windowReg_windowOffset r
      rw [h] at hr
      exact (Option.some.inj hr).symm
    · rintro rfl; rfl
  simp only [State.isSoftReset, Bool.and_eq_true, beq_iff_eq, Nat.add_left_cancel_iff, hoff, and_true]

/-- A step that answers a next state is a reset, hard or soft, or one of the other kinds of step. -/
theorem step_next {s t : State} (h : step s = .next t) :
    (s.nextIsReset = true ∧
      (t = s.afterTurn.assertReset ∨ (s.resetHeld = false ∧ t = s.afterTurn.toReset.record .done))) ∨
    (s.nextIsReset = false ∧ StepKind s t) := by
  obtain ⟨ha, he⟩ | ⟨e, rest, ha, he⟩ := step_cases s
  · rw [he, ← State.afterTurn_of_nil ha] at h
    rw [State.afterTurn_of_nil ha] at h
    exact .inr ⟨by simp [State.nextIsReset, ha],
      stepKind_of_engineStep (by simp [State.engineTurn, ha]) (by rwa [State.afterTurn_of_nil ha])⟩
  · rw [he, ← State.afterTurn_of_cons ha] at h
    cases e with
    | engine =>
      exact .inr ⟨by simp [State.nextIsReset, ha, State.isSoftReset],
        stepKind_of_engineStep (by simp [State.engineTurn, ha]) h⟩
    | entropy w =>
      cases h
      exact .inr ⟨by simp [State.nextIsReset, ha, State.isSoftReset], .entropy w rest ha rfl⟩
    | releaseReset =>
      cases h
      exact .inr ⟨by simp [State.nextIsReset, ha, State.isSoftReset], .release rest ha rfl⟩
    | assertReset =>
      cases h
      exact .inl ⟨by simp [State.nextIsReset, ha], .inl rfl⟩
    | host a =>
      obtain ⟨hr, r, u, hb, rfl⟩ := hostStep_next h
      obtain ⟨reg, ⟨rfl, rfl, rfl⟩ | ⟨w, rfl, rfl, rfl⟩⟩ := busAccess_answered hb
      · exact .inr ⟨by simp [State.nextIsReset, ha, State.isSoftReset], .read reg rest hr ha rfl⟩
      · have hs := isSoftReset_write s reg w
        have hn : s.nextIsReset = s.isSoftReset (.host (.write (s.base + windowOffset reg) 8 w)) := by
          simp only [State.nextIsReset, ha]
          exact Bool.or_false _
        by_cases hc : reg = .ctrl ∧ w.getLsbD 0 = true
        · obtain ⟨rfl, hw⟩ := hc
          exact .inl ⟨hn.trans (hs.2 ⟨rfl, hw⟩), .inr ⟨hr, by simp only [State.busWrite, State.writeCtrl, hw, if_true]⟩⟩
        · exact .inr ⟨hn.trans (Bool.eq_false_iff.2 fun h => hc (hs.1 h)),
            .write reg w rest hr ha (fun h => Bool.eq_false_iff.2 fun h' => hc ⟨h, h'⟩) rfl⟩

end Sys2Proof.Machine
end

