-- ==== Sys2Proof/Tests/Slice0.lean ====
section
/-! SUPPORT. Tests of the model against the numbers of spec/95_test_vectors.md and words written out from
30_encoding.md R91 and R97, the smoke test of WellFormed, and one witness for the hypotheses of each statement. -/

-- The tests run one after another: their kernel checks side by side need more thread stacks than check.sh allows.
set_option Elab.async false

namespace Sys2Proof.Tests

open Sys2Proof.Machine

/-! ## Helpers -/

/-- `X1` and `X2` of 95_test_vectors.md section 0. -/
def x1 : U256 := 0x0123456789abcdef0123456789abcdef0123456789abcdef0123456789abcdef#256
def x2 : U256 := 0x2fedcba9876543210fedcba9876543210fedcba9876543210fedcba987654321#256

/-- `P - 1`, the largest canonical value, and `2^256 - 1`, the largest pattern. -/
def pMinus1 : U256 := romP - 1#256
def maxPattern : U256 := BitVec.allOnes 256

/-- The reset state with `f1 = x` and `f2 = y`. -/
def loaded (x y : U256) : State := (State.reset.writeReg .f1 x).writeReg .f2 y

/-- `loaded` with the borrow flag set. -/
def borrowed (x : U256) : State := (loaded x 0#256).writeFlag .brw true

/-- The reset state with the given events next. -/
def withAgenda (es : List Event) : State := { State.reset with agenda := es }

/-- A BUSY machine running `BSQR f1, f0` with the given events next. -/
def running (es : List Event) : State := { (State.reset.latchCommand 0x00000121#32) with agenda := es }

/-- A machine with a recorded fault and the given events next. -/
def faulted (es : List Event) : State := { State.reset.raiseFault .cmdHigh with agenda := es }

/-- The reset state with these entropy words available. -/
def supplied (ws : List U64) : State := { State.reset with entropy := ws }

/-- The state after one step on a command word. -/
def ranWord (s : State) (w : Nat) : Option State :=
  match step (s.withFetchWord 32 w) with
  | .next t => some t
  | _ => none

/-- The value one step on a command word leaves in a register. -/
def ranReg (s : State) (w : Nat) (r : FReg) : Option U256 := (ranWord s w).bind (fun t => t.source r)

/-- The `FLAGS` word after one step on a command word. -/
def ranFlags (s : State) (w : Nat) : Option U64 := (ranWord s w).map (fun t => flagsWord t.flags)

/-- The `STATUS` word after one step. -/
def statusAfter (s : State) : Option U64 :=
  match step s with
  | .next t => some (statusWord t)
  | _ => none

/-! ## WellFormed: the one check refuses an ill-formed term -/

theorem test_wf_refuses_selector_6 : (Instr.fldc .f0 6#4).wf = false := by decide
theorem test_wf_refuses_selector_15 : (Instr.fldc .f0 15#4).wf = false := by decide
theorem test_wf_takes_selector_5 : (Instr.fldc .f7 5#4).wf = true := by decide

/-! ## Decoding: words written out from the fields of R91, `op`, `rd << 8`, `rs1 << 12`, `rs2 << 16`
(95_test_vectors.md section 2.1) -/

theorem test_decode_system :
    decode 0x00000000#64 = .legal (.nop) ∧
    decode 0x00001201#64 = .legal (.fmov .f2 .f1) ∧
    decode 0x00005002#64 = .legal (.fldc .f0 5#4) ∧
    decode 0x00005702#64 = .legal (.fldc .f7 5#4) := by decide
theorem test_encode_system :
    encode (.nop) = 0x00000000#32 ∧
    encode (.fmov .f2 .f1) = 0x00001201#32 ∧
    encode (.fldc .f0 5#4) = 0x00005002#32 ∧
    encode (.fldc .f7 5#4) = 0x00005702#32 := by decide
theorem test_decode_fixups :
    decode 0x00002010#64 = .legal (.chkovf .f2) ∧
    decode 0x00002311#64 = .legal (.fixovf .f3 .f2) ∧
    decode 0x00003312#64 = .legal (.fixunf .f3 .f3) ∧
    decode 0x00021013#64 = .legal (.feq .f1 .f2) ∧
    decode 0x00021314#64 = .legal (.wadd .f3 .f1 .f2) ∧
    decode 0x00021315#64 = .legal (.wsub .f3 .f1 .f2) := by decide
theorem test_encode_fixups :
    encode (.chkovf .f2) = 0x00002010#32 ∧
    encode (.fixovf .f3 .f2) = 0x00002311#32 ∧
    encode (.fixunf .f3 .f3) = 0x00003312#32 ∧
    encode (.feq .f1 .f2) = 0x00021013#32 ∧
    encode (.wadd .f3 .f1 .f2) = 0x00021314#32 ∧
    encode (.wsub .f3 .f1 .f2) = 0x00021315#32 := by decide
theorem test_decode_additive :
    decode 0x00021318#64 = .legal (.fadd .f3 .f1 .f2) ∧
    decode 0x00012319#64 = .legal (.fsub .f3 .f2 .f1) ∧
    decode 0x0000131a#64 = .legal (.fneg .f3 .f1) := by decide
theorem test_encode_additive :
    encode (.fadd .f3 .f1 .f2) = 0x00021318#32 ∧
    encode (.fsub .f3 .f2 .f1) = 0x00012319#32 ∧
    encode (.fneg .f3 .f1) = 0x0000131a#32 := by decide
theorem test_decode_barrett :
    decode 0x00077720#64 = .legal (.bmul .f7 .f7 .f7) ∧
    decode 0x00001321#64 = .legal (.bsqr .f3 .f1) := by decide
theorem test_encode_barrett :
    encode (.bmul .f7 .f7 .f7) = 0x00077720#32 ∧
    encode (.bsqr .f3 .f1) = 0x00001321#32 := by decide
theorem test_decode_montgomery :
    decode 0x00021330#64 = .legal (.mmul .f3 .f1 .f2) ∧
    decode 0x00001331#64 = .legal (.msqr .f3 .f1) ∧
    decode 0x00001332#64 = .legal (.tomont .f3 .f1) ∧
    decode 0x00001333#64 = .legal (.frommont .f3 .f1) := by decide
theorem test_encode_montgomery :
    encode (.mmul .f3 .f1 .f2) = 0x00021330#32 ∧
    encode (.msqr .f3 .f1) = 0x00001331#32 ∧
    encode (.tomont .f3 .f1) = 0x00001332#32 ∧
    encode (.frommont .f3 .f1) = 0x00001333#32 := by decide
theorem test_decode_exp_inv :
    decode 0x00021340#64 = .legal (.pow .f3 .f1 .f2) ∧
    decode 0x00006741#64 = .legal (.inv .f7 .f6) := by decide
theorem test_encode_exp_inv :
    encode (.pow .f3 .f1 .f2) = 0x00021340#32 ∧
    encode (.inv .f7 .f6) = 0x00006741#32 := by decide
theorem test_decode_sampling :
    decode 0x00000750#64 = .legal (.rand .f7) := by decide
theorem test_encode_sampling :
    encode (.rand .f7) = 0x00000750#32 := by decide
theorem test_decode_pseudo :
    decode 0x00000402#64 = .legal (pseudoFzero .f4) ∧
    decode 0x00001402#64 = .legal (pseudoFone .f4) ∧
    decode 0x00011218#64 = .legal (pseudoFdbl .f2 .f1) := by decide
theorem test_decode_illegal :
    decode 0x0000000100000000#64 = .illegal .cmdHigh ∧ decode 0x00000001000000ff#64 = .illegal .cmdHigh ∧
    decode 0x03#64 = .illegal .illegalOpcode ∧ decode 0xff#64 = .illegal .illegalOpcode ∧
    decode 0x80003#64 = .illegal .illegalOpcode ∧ decode 0x100#64 = .illegal .illegalOperand ∧
    decode 0x8201#64 = .illegal .illegalOperand ∧ decode 0x6002#64 = .illegal .illegalOperand ∧
    decode 0x100000#64 = .illegal .illegalOperand ∧ decode 0x10021#64 = .illegal .illegalOperand ∧
    decode 0x850#64 = .illegal .illegalOperand := by decide
theorem test_decode_table_word : decodeTableWord 32 0x00021320 = some (.bmul .f3 .f1 .f2) := by decide

/-! ## One step on a command word (95_test_vectors.md sections 2.2 to 2.8) -/

theorem test_nop : ranWord (loaded x1 x2) 0x00000000 = some { loaded x1 x2 with busy := false } := by decide +kernel
theorem test_fmov : ranReg (loaded maxPattern x2) 0x00001201 .f2 = some maxPattern := by decide +kernel
theorem test_fmov_unwritten : ranReg (loaded x1 x2) 0x00004301 .f3 = none := by decide +kernel
theorem test_fldc_r2 : ranReg State.reset 0x00005002 .f0 = some 0x216d0b17f4e44a58c49833d53bb808553fe3ab1e35c59e31bb8e645ae216da7#256 := by decide +kernel
theorem test_chkovf_p : ranFlags (loaded x1 romP) 0x00002010 = some 1#64 := by decide +kernel
theorem test_chkovf_p_minus_1 : ranFlags (loaded x1 pMinus1) 0x00002010 = some 0#64 := by decide +kernel
theorem test_fixovf : ranReg (loaded x1 (romP + 1#256)) 0x00002311 .f3 = some 1#256 := by decide +kernel
theorem test_fixovf_max : ranReg (loaded x1 maxPattern) 0x00002311 .f3 = some 0xcf9bb18d1ece5fd647afba497e7ea7a2d7cc17b786468f6ebc1e0a6c0ffffffe#256 := by decide +kernel
theorem test_fixunf : ranReg (borrowed (x1 - x2)) 0x00001312 .f3 = some 0x199c830e3782af7a985bf7483c7e32b196962067bfffb5f35176f51f2468acf#256 := by decide +kernel
theorem test_fixunf_no_borrow : ranReg (loaded maxPattern x2) 0x00001312 .f3 = some maxPattern := by decide +kernel
theorem test_feq_patterns : ranFlags (loaded 0#256 romP) 0x00021013 = some 0#64 := by decide +kernel
theorem test_feq_same : ranFlags (loaded x1 x1) 0x00021013 = some 2#64 := by decide +kernel
theorem test_wadd : ranReg (loaded x1 x2) 0x00021314 .f3 = some 0x3111111111111110111111111111111011111111111111101111111111111110#256 := by decide +kernel
theorem test_wadd_carry : ranFlags (loaded maxPattern 1#256) 0x00021314 = some 4#64 := by decide +kernel
theorem test_wsub : ranReg (loaded x1 x2) 0x00021315 .f3 = some 0xd13579be02468acdf13579be02468acdf13579be02468acdf13579be02468ace#256 := by decide +kernel
theorem test_wsub_borrow : ranFlags (loaded x1 x2) 0x00021315 = some 8#64 := by decide +kernel
theorem test_fadd : ranReg (loaded x1 x2) 0x00021318 .f3 = some 0xacc29e2fdf70e658c0cb5a8f8fb8b2e8dd28c89757a07ecd2f1b7d2111110f#256 := by decide +kernel
theorem test_fadd_in_place : ranReg (loaded pMinus1 1#256) 0x00021118 .f1 = some 0#256 := by decide +kernel
theorem test_fsub : ranReg (loaded x1 x2) 0x00021319 .f3 = some 0x199c830e3782af7a985bf7483c7e32b196962067bfffb5f35176f51f2468acf#256 := by decide +kernel
theorem test_fsub_swapped : ranReg (loaded x1 x2) 0x00012319 .f3 = some 0x2eca8641fdb975320eca8641fdb975320eca8641fdb975320eca8641fdb97532#256 := by decide +kernel
theorem test_fneg : ranReg (loaded x1 x2) 0x0000131a .f3 = some 0x2f41090b5785d23ab72d004ef7d58a6e2710a2e0f00da2a242beb02c66543212#256 := by decide +kernel
theorem test_fneg_zero : ranReg (loaded 0#256 x2) 0x0000131a .f3 = some 0#256 := by decide +kernel
theorem test_bmul : ranReg (loaded x1 x2) 0x00021320 .f3 = some 0x2ae92b258e8b68dbc450768e6bc158a1411f18efa8f9318351edec60e042d25c#256 := by decide +kernel
theorem test_bmul_fixup_subtracts : ranReg (loaded 0x1da30cea08a2867d114252f564aa6abaa4cacc74907a994112acb73e7b0354f6#256
    0x146e9640699d7068a4cb69bbd64a7775da0725b0c22cd1f404d553a3131db037#256) 0x00021320 .f3 = some 0x3a02688105a99948e37f156c92cd394cf163666df51e9de2505f540d4576936#256 := by decide +kernel
theorem test_bsqr : ranReg (loaded x1 x2) 0x00002321 .f3 = some 0x2cb78fc915d9d1569d131f699a375f005a349c24dff46f29ac707942200da218#256 := by decide +kernel
theorem test_bsqr_p_minus_1 : ranReg (loaded pMinus1 x2) 0x00001321 .f3 = some 1#256 := by decide +kernel
theorem test_mmul : ranReg (loaded x1 x2) 0x00021330 .f3 = some 0x2bdde54da6c7ce820d9089c8c171ff9a57bfa95105db0a7cba4140dbe661c5b6#256 := by decide +kernel
theorem test_mmul_fixup_subtracts : ranReg (loaded 0x2b8fbb5dd45844bbd3515e57390650e7662d3fee77199f061beac82815f52d75#256
    0x2cc44127df27bf61ab2363f3c2eb362b7c4f3462a44d5cad1bdd25699d8c41ea#256) 0x00021330 .f3 = some 0x5eceb666fc9337422226be697241bb756ef553bacf9e378bac4d719fd757704#256 := by decide +kernel
theorem test_msqr : ranReg (loaded x1 x2) 0x00002331 .f3 = some 0x3e7d72a3dc748dd599d847507da408e8361de2f311ae7b1c5390463c5210977#256 := by decide +kernel
theorem test_tomont : ranReg (loaded x1 x2) 0x00001332 .f3 = some 0x1f070d3806a60090058a778211199a8318091b67048b32103dfd41ee47adceb9#256 := by decide +kernel
theorem test_tomont_p_minus_1 : ranReg (loaded pMinus1 x2) 0x00001332 .f3 = some 0x2259d6b14729c0fa51e1a2470908122ef13771b2da58a367974bc177a0000006#256 := by decide +kernel
theorem test_frommont : ranReg (loaded x1 x2) 0x00001333 .f3 = some 0x84b51d2bd88fc490de45e2a733d1153e2d66a7c62f48e3676a01a37e67822f2#256 := by decide +kernel
theorem test_pow : ranReg (loaded 2#256 10#256) 0x00021340 .f3 = some 0x400#256 := by decide +kernel
theorem test_pow_x1_5 : ranReg (loaded x1 5#256) 0x00021340 .f3 = some 0x1e486b42d41bb1c52aeb065e5828e115df94e4689ee7ce59ee03288d74e948c2#256 := by decide +kernel
theorem test_inv : ranReg (loaded x1 x2) 0x00001341 .f3 = some 0x2adbc31144240e2850cf39ea9a0f81990019e8f392a2dc73ddf452be0b569caf#256 := by decide +kernel
theorem test_inv_zero : ranReg (loaded 0#256 x2) 0x00001341 .f3 = some 0#256 := by decide +kernel
theorem test_rand_accepts : ranReg (supplied [0x0f87d64fc0000009#64, 0xa0cfa121e6e5c245#64, 0xe14116da06056174#64, 0xc19139cb84c680a6#64])
    0x00000750 .f7 = some 5#256 := by decide +kernel
theorem test_rand_rejects : (ranWord (supplied [0x5369cbe3b0000005#64, 0xc903896a609f32d6#64, 0x99915c908786b9d1#64, 0xf1f5883e65f820d0#64])
    0x00000750).map (fun t => (t.busy, t.entropyPos, t.source .f7)) = some (true, 4, none) := by decide +kernel

/-! ## Host accesses (95_test_vectors.md sections 2.9 and 2.10) -/

theorem test_limb_write : (match step { loaded romP x2 with agenda := [.host (.write 0x128 8 0#64)] } with | .next t => t.source .f1 | _ => none) = some 0x30644e72e131a029b85045b68181585d000000000000000043e1f593f0000001#256 := by decide +kernel
theorem test_limb_read : (match step { loaded romP x2 with agenda := [.host (.read 0x138 8)] } with | .next t => t.replies | _ => []) = [.data 0x30644e72e131a029#64] := by decide +kernel
theorem test_window_bytes : (windowByte (loaded romP x2) 0x127, windowByte (loaded romP x2) 0x13f) = (some 0x43#8, some 0x30#8) := by decide +kernel
theorem test_bus_errors : ([Event.host (.read 0x124 8), .host (.read 0x120 4), .host (.read 0x020 8), .host (.read 0x0f8 8)].map
    (fun e => match step (withAgenda [e]) with | .refused r => some r | _ => none)) = [some (.busError .alignment), some (.busError .size), some (.busError .unmapped), some (.busError .unmapped)] := by decide +kernel
theorem test_cmd_write_accepts : statusAfter (withAgenda [.host (.write 0 8 0x121#64)]) = some 0x01#64 := by decide +kernel
theorem test_cmd_write_unknown_opcode : statusAfter (withAgenda [.host (.write 0 8 0x3#64)]) = some 0x12#64 := by decide +kernel
theorem test_cmd_write_while_busy : statusAfter (running [.host (.write 0 8 0#64)]) = some 0x43#64 := by decide +kernel
theorem test_limb_read_while_busy : statusAfter (running [.host (.read 0x120 8)]) = some 0x43#64 := by decide +kernel
theorem test_soft_reset : (match step { loaded x1 x2 with agenda := [.host (.write 0x018 8 3#64)] } with | .next t => t.source .f1 | _ => some 0#256) = none := by decide +kernel

/-! ## Witnesses: states and operands that meet the hypotheses of each statement, at boundary values -/

theorem witness_DecodeInvertsEncode : (Instr.fldc .f7 5#4).wf = true := by decide
theorem witness_LegalValueIsItsEncoding : decode 0x5702#64 = .legal (.fldc .f7 5#4) := by decide
theorem witness_HighBitsAndUnknownOpcodesAreIllegal :
    2 ^ 32 ≤ (0x100000000#64).toNat ∧
    ((0xffffff03#64).toNat < 2 ^ 32 ∧ 0x03 ≤ (0xffffff03#64).toNat % 256 ∧ (0xffffff03#64).toNat % 256 ≤ 0x0f) ∧
    ((0x51#64).toNat < 2 ^ 32 ∧ 0x51 ≤ (0x51#64).toNat % 256) := by decide
theorem witness_BadFieldsAreIllegalOperands :
    ((0x6002#64).toNat < 2 ^ 32 ∧ (0x6002#64).toNat % 256 = Opcode.fldc.code.toNat) ∧
    ((0x77720#64).toNat < 2 ^ 32 ∧ (0x77720#64).toNat % 256 = Opcode.bmul.code.toNat) := by decide
theorem witness_EveryStepKeepsTheInvariant :
    (withAgenda [.host (.write 0 8 0x121#64)]).Inv ∧
    statusAfter (withAgenda [.host (.write 0 8 0x121#64)]) = some 0x01#64 := by
  refine ⟨⟨⟨fun _ => rfl, ?_⟩, ?_, ?_, ?_⟩, by decide +kernel⟩
  · intro h; cases h
  · intro h; cases h
  · intro h; cases h
  · intro i j _; cases i <;> cases j <;> rfl
theorem witness_FaultStaysUntilReset :
    (faulted [.engine]).fault = true ∧ (faulted [.engine]).nextIsReset = false ∧
    step (faulted [.engine]) = .next (faulted []) := ⟨rfl, rfl, rfl⟩
theorem witness_FlagsChangeOnlyByTheirCommand :
    (withAgenda [.assertReset]).nextIsReset = true ∧ step (withAgenda [.assertReset]) = .next (withAgenda []).assertReset ∧
    ((loaded romP x2).withFetchWord 32 0x1010).nextIsReset = false ∧
    ranFlags (loaded romP x2) 0x1010 = some 1#64 ∧ (loaded romP x2).flags.get .ovf = false :=
  ⟨rfl, rfl, rfl, by decide +kernel, rfl⟩
theorem witness_RegistersChangeOnlyByCommandsAndLimbWrites :
    ranReg State.reset 0x1002 .f0 = some 1#256 ∧ State.reset.source .f0 = none ∧
    (match step (withAgenda [.host (.write 0x1f8 8 9#64)]) with
      | .next t => decide (t.cell .f7 = State.reset.cell .f7)
      | _ => true) = false ∧
    (match step { loaded x1 x2 with agenda := [.assertReset] } with
      | .next t => decide (t.cell .f1 = (loaded x1 x2).cell .f1)
      | _ => true) = false := by decide +kernel
theorem witness_EntropyAdvancesOnlyByDraws :
    step (withAgenda [.entropy 7#64]) = .next (supplied [7#64]) ∧
    (ranWord (supplied [1#64, 2#64, 3#64, 4#64]) 0x750).map (fun t => t.entropyPos) = some 4 :=
  ⟨rfl, by decide +kernel⟩
theorem witness_StepRunsTheLatchedCommand :
    ((running []).busy = true ∧ (running []).resetHeld = false ∧
      latchedCommand (running []).cmdLatch = some (.bsqr .f1 .f0) ∧ (running []).agenda = []) ∧
    ((running [.engine]).busy = true ∧ (running [.engine]).agenda = [.engine]) := by decide
theorem witness_EveryCommandButRandCompletesInOneStep :
    (running [.engine]).busy = true ∧ (running [.engine]).resetHeld = false ∧ (running [.engine]).engineTurn = true ∧
    latchedCommand (running [.engine]).cmdLatch = some (.bsqr .f1 .f0) ∧ isRand (.bsqr .f1 .f0) = false := by decide
theorem witness_CommandsTouchOnlyTheirDestinations :
    exec .nop (running []) = .next (running []).toIdle ∧ exec (.rand .f0) (running []) = .next (running []) := ⟨rfl, rfl⟩
theorem witness_CommandsNeverFault : (Instr.fldc .f0 5#4).wf = true ∧ (Instr.inv .f0 .f0).wf = true := by decide
theorem witness_FirstFaultIsKept : (faulted []).fault = true ∧ State.reset.fault = false := by decide
theorem witness_CmdWriteIsTheAcceptStep :
    (withAgenda [.host (.write 0 8 0#64)]).hostNext (.write State.reset.base 8 0#64) [] ∧
    (faulted [.host (.write 0 8 0#64)]).hostNext (.write State.reset.base 8 0#64) [] ∧
    (running [.host (.write 0 8 0#64)]).hostNext (.write State.reset.base 8 0#64) [] := ⟨⟨rfl, rfl⟩, ⟨rfl, rfl⟩, ⟨rfl, rfl⟩⟩
theorem witness_BusyPhaseRule :
    (running [.host (.write 0 8 0#64)]).busy = true ∧
    (running [.host (.write 0 8 0#64)]).hostNext (.write State.reset.base 8 0#64) [] ∧
    (running [.host (.write 0x1f8 8 9#64)]).hostNext
      (.write (State.reset.base + (0x100 + 32 * FReg.f7.code.toNat + 8 * limbIndex .l3)) 8 9#64) [] ∧
    (running [.host (.read 0x100 8)]).hostNext
      (.read (State.reset.base + (0x100 + 32 * FReg.f0.code.toNat + 8 * limbIndex .l0)) 8) [] ∧
    (running [.host (.read 0x018 8)]).hostNext (.read (State.reset.base + 0x018) 8) [] ∧
    (running [.host (.write 0x010 8 9#64)]).hostNext (.write (State.reset.base + 0x010) 8 9#64) [] ∧
    (running [.host (.write 0x018 8 1#64)]).hostNext (.write (State.reset.base + 0x018) 8 1#64) [] :=
  ⟨rfl, ⟨rfl, rfl⟩, ⟨rfl, rfl⟩, ⟨rfl, rfl⟩, ⟨rfl, rfl⟩, ⟨rfl, rfl⟩, ⟨rfl, rfl⟩⟩
theorem witness_IdleLimbAccess :
    (withAgenda [.host (.write 0x1f8 8 9#64)]).busy = false ∧
    (withAgenda [.host (.write 0x1f8 8 9#64)]).hostNext
      (.write (State.reset.base + (0x100 + 32 * FReg.f7.code.toNat + 8 * limbIndex .l3)) 8 9#64) [] ∧
    ({ loaded x1 x2 with agenda := [.host (.read 0x120 8)] } : State).hostNext
      (.read (State.reset.base + (0x100 + 32 * FReg.f1.code.toNat + 8 * limbIndex .l0)) 8) [] ∧
    ((loaded x1 x2).cell .f1).marks.get .l0 = true ∧
    (withAgenda [.host (.read 0x100 8)]).hostNext
      (.read (State.reset.base + (0x100 + 32 * FReg.f0.code.toNat + 8 * limbIndex .l0)) 8) [] ∧
    (State.reset.cell .f0).marks.get .l0 = false :=
  ⟨rfl, ⟨rfl, rfl⟩, ⟨rfl, rfl⟩, rfl, ⟨rfl, rfl⟩, rfl⟩
theorem witness_RegisterIsWrittenWhenAllLimbsAre :
    (∀ j, j ∈ [LimbIx.l3, .l1, .l0, .l2]) ∧
    (LimbIx.l3 ∉ [LimbIx.l1, .l0, .l2] ∧ Cell.unwritten.marks.get .l3 = false) :=
  ⟨fun j => by cases j <;> decide, by decide⟩
theorem witness_WindowIsLittleEndian :
    ((loaded x1 x2).busy = false ∧ (loaded x1 x2).source .f1 = some x1 ∧ 31 < 32) ∧
    ((State.reset.putCell .f7 (Cell.unwritten.putLimb .l3 7#64)).busy = false ∧
      ((State.reset.putCell .f7 (Cell.unwritten.putLimb .l3 7#64)).cell .f7).limb? .l3 = some 7#64 ∧ 7 < 8) := by decide
theorem witness_BusErrorsAreRefusedInOrder :
    ((withAgenda [.host (.read 0x1fc 8)]).hostNext (.read 0x1fc 8) [] ∧
      State.reset.base + 0x200 < (HostAccess.read 0x1fc 8).addr + (HostAccess.read 0x1fc 8).size) ∧
    ((withAgenda [.host (.read 0x1fc 4)]).hostNext (.read 0x1fc 4) [] ∧ (HostAccess.read 0x1fc 4).size ≠ 8) ∧
    ((withAgenda [.host (.read 0x1f4 8)]).hostNext (.read 0x1f4 8) [] ∧ (0x1f4 - State.reset.base) % 8 ≠ 0) ∧
    ((withAgenda [.host (.read 0x020 8)]).hostNext (.read 0x020 8) [] ∧ 0x020 ≤ 0x020 - State.reset.base) ∧
    ((withAgenda [.host (.read 0x0f8 8)]).hostNext (.read 0x0f8 8) [] ∧ 0x0f8 - State.reset.base < 0x100) ∧
    ((withAgenda [.host (.read 0x018 8)]).hostNext (.read 0x018 8) [] ∧ 0x018 - State.reset.base < 0x020) ∧
    ((withAgenda [.host (.read 0x100 8)]).hostNext (.read 0x100 8) [] ∧ 0x100 ≤ 0x100 - State.reset.base) :=
  ⟨⟨⟨rfl, rfl⟩, by decide⟩, ⟨⟨rfl, rfl⟩, by decide⟩, ⟨⟨rfl, rfl⟩, by decide⟩, ⟨⟨rfl, rfl⟩, by decide⟩,
    ⟨⟨rfl, rfl⟩, by decide⟩, ⟨⟨rfl, rfl⟩, by decide⟩, ⟨⟨rfl, rfl⟩, by decide⟩⟩
theorem witness_ReadOnlyIgnoresWriteOnlyReadsZero :
    (withAgenda [.host (.write 0x008 8 0xff#64)]).hostNext (.write (State.reset.base + 0x008) 8 0xff#64) [] ∧
    (withAgenda [.host (.write 0x010 8 0xf#64)]).hostNext (.write (State.reset.base + 0x010) 8 0xf#64) [] ∧
    (withAgenda [.host (.read 0 8)]).hostNext (.read State.reset.base 8) [] ∧
    (withAgenda [.host (.read 0x018 8)]).hostNext (.read (State.reset.base + 0x018) 8) [] :=
  ⟨⟨rfl, rfl⟩, ⟨rfl, rfl⟩, ⟨rfl, rfl⟩, ⟨rfl, rfl⟩⟩
theorem witness_StatusAndFlagsReadOut :
    (running [.host (.read 0x008 8)]).hostNext (.read (State.reset.base + 0x008) 8) [] ∧
    (running [.host (.read 0x010 8)]).hostNext (.read (State.reset.base + 0x010) 8) [] := ⟨⟨rfl, rfl⟩, ⟨rfl, rfl⟩⟩
theorem witness_CtrlWriteIsTheSoftReset :
    ((faulted [.host (.write 0x018 8 3#64)]).hostNext (.write (State.reset.base + 0x018) 8 3#64) [] ∧
      (3#64).toNat % 2 = 1) ∧
    ((running [.host (.write 0x018 8 2#64)]).hostNext (.write (State.reset.base + 0x018) 8 2#64) [] ∧
      (2#64).toNat % 2 = 0) ∧
    (running [.host (.read 0x018 8)]).hostNext (.read (State.reset.base + 0x018) 8) [] :=
  ⟨⟨⟨rfl, rfl⟩, rfl⟩, ⟨⟨rfl, rfl⟩, rfl⟩, ⟨rfl, rfl⟩⟩
theorem witness_HardResetHoldsTheResetState :
    (running [.assertReset]).agenda = [.assertReset] ∧
    ((withAgenda [.host (.read 0 8)]).assertReset.resetHeld = true ∧
      (withAgenda [.host (.read 0 8)]).assertReset.agenda = [.host (.read 0 8)]) ∧
    ((withAgenda [.engine]).assertReset.resetHeld = true ∧ (withAgenda [.engine]).assertReset.agenda = [.engine]) ∧
    ((withAgenda []).assertReset.resetHeld = true ∧ (withAgenda []).assertReset.agenda = []) ∧
    (withAgenda [.releaseReset]).assertReset.agenda = [.releaseReset] := by decide
theorem witness_FixupRanges : pMinus1.toNat < modulus ∧ (0#256).toNat < modulus := by decide
theorem witness_ChkovfComparesWithP : (loaded romP x2).source .f1 = some romP := by decide
theorem witness_FeqComparesPatterns :
    (loaded 0#256 romP).source .f1 = some 0#256 ∧ (loaded 0#256 romP).source .f2 = some romP := by decide
theorem witness_FixovfSubtractsPOnce : (loaded maxPattern x2).source .f1 = some maxPattern := by decide
theorem witness_FixunfAddsPOnBorrow :
    (borrowed maxPattern).source .f1 = some maxPattern ∧ (borrowed maxPattern).flags.brw = true := by decide
theorem witness_WaddAddsWithCarryOut :
    (loaded maxPattern maxPattern).source .f1 = some maxPattern ∧
    (loaded maxPattern maxPattern).source .f2 = some maxPattern := by decide
theorem witness_WsubSubtractsWithBorrowOut :
    (loaded maxPattern maxPattern).source .f1 = some maxPattern ∧
    (loaded maxPattern maxPattern).source .f2 = some maxPattern := witness_WaddAddsWithCarryOut
theorem witness_ModularCommandsInDomain :
    (loaded pMinus1 pMinus1).source .f1 = some pMinus1 ∧ (loaded pMinus1 pMinus1).source .f2 = some pMinus1 ∧
    pMinus1.toNat < modulus := by decide
theorem witness_ModularCommandsInDomainAtZero :
    (loaded 0#256 0#256).source .f1 = some 0#256 ∧ (loaded 0#256 0#256).source .f2 = some 0#256 ∧
    (0#256).toNat < modulus := by decide
theorem witness_FaddAddsModuloP :
    (loaded pMinus1 pMinus1).source .f1 = some pMinus1 ∧ (loaded pMinus1 pMinus1).source .f2 = some pMinus1 ∧
    pMinus1.toNat < modulus :=
  witness_ModularCommandsInDomain
theorem witness_FsubAndFnegSubtractModuloP :
    (loaded pMinus1 pMinus1).source .f1 = some pMinus1 ∧ (loaded pMinus1 pMinus1).source .f2 = some pMinus1 ∧
    pMinus1.toNat < modulus :=
  witness_ModularCommandsInDomain
theorem witness_BarrettCommandsMultiplyModuloP :
    (loaded pMinus1 pMinus1).source .f1 = some pMinus1 ∧ (loaded pMinus1 pMinus1).source .f2 = some pMinus1 ∧
    pMinus1.toNat < modulus :=
  witness_ModularCommandsInDomain
theorem witness_MontgomeryCommandsMultiplyByRInverse :
    (loaded pMinus1 pMinus1).source .f1 = some pMinus1 ∧ (loaded pMinus1 pMinus1).source .f2 = some pMinus1 ∧
    pMinus1.toNat < modulus :=
  witness_ModularCommandsInDomain
theorem witness_DomainTransforms :
    (loaded pMinus1 pMinus1).source .f1 = some pMinus1 ∧ pMinus1.toNat < modulus :=
  ⟨witness_ModularCommandsInDomain.1, witness_ModularCommandsInDomain.2.2⟩
theorem witness_InvComputesTheFermatPower :
    (loaded pMinus1 pMinus1).source .f1 = some pMinus1 ∧ pMinus1.toNat < modulus :=
  ⟨witness_ModularCommandsInDomain.1, witness_ModularCommandsInDomain.2.2⟩
theorem witness_MontgomeryLaws : pMinus1.toNat < modulus ∧ (0#256).toNat < modulus := witness_FixupRanges
theorem witness_BarrettEstimateIsOffByAtMostOne :
    (BitVec.ofNat 512 (modulus ^ 2 - 1)).toNat < modulus ^ 2 := by decide +kernel
theorem witness_CiosAccumulatorFitsFiveLimbs : pMinus1.toNat < modulus ∧ 2 * modulus - 1 < 2 * modulus := by decide
theorem witness_PowRaisesToThePower :
    (loaded pMinus1 maxPattern).source .f1 = some pMinus1 ∧ (loaded pMinus1 maxPattern).source .f2 = some maxPattern ∧
    pMinus1.toNat < modulus := by decide
theorem witness_InverseLaws : pMinus1.toNat < modulus ∧ pMinus1 ≠ 0#256 := by decide
theorem witness_RandDrawsFourWords :
    let w : U64 := BitVec.allOnes 64
    ((supplied [4#64, 0#64, 0#64, 0#64]).entropy = [4#64, 0#64, 0#64, 0#64] ∧
      (4#64).toNat + 2 ^ 64 * (0#64).toNat + 2 ^ 128 * (0#64).toNat + 2 ^ 192 * (0#64).toNat < 5 * modulus) ∧
    ((supplied [w, w, w, w]).entropy = [w, w, w, w] ∧
      5 * modulus ≤ w.toNat + 2 ^ 64 * w.toNat + 2 ^ 128 * w.toNat + 2 ^ 192 * w.toNat) := by decide +kernel
theorem witness_RandDrawsFourWordsBoundary :
    (0x5369cbe3b0000004#64).toNat + 2 ^ 64 * (0xc903896a609f32d6#64).toNat + 2 ^ 128 * (0x99915c908786b9d1#64).toNat
      + 2 ^ 192 * (0xf1f5883e65f820d0#64).toNat + 1 = 5 * modulus := by decide +kernel
theorem witness_RandWaitsForEntropy : (supplied [1#64, 2#64, 3#64]).entropy.length < 4 := by decide
theorem witness_FmovCopiesThePattern :
    (loaded maxPattern x2).source .f1 = some maxPattern ∧ State.reset.source .f1 = none := by decide
theorem witness_FldcLoadsTheConstant : 6 ≤ (6#4).toNat ∧ 6 ≤ (15#4).toNat := by decide
theorem witness_OutOfDomainOperandsGiveAFreeValue :
    (loaded romP romP).source .f1 = some romP ∧ (loaded romP romP).source .f2 = some romP ∧
    modulus ≤ romP.toNat := by decide
theorem witness_UnwrittenSourcesGiveUnwrittenResults :
    State.reset.source .f1 = none ∧ (State.reset.writeReg .f1 x1).source .f2 = none := by decide
/-- One step for each clause: a reset of a BUSY machine, an accepted command, a completion, a fault recorded in phase
IDLE and one in phase BUSY, the engine's turn in phase IDLE in both forms, and a word of entropy. -/
theorem witness_StatusAndLatchChangeOnlyByTheirSteps :
    ((running [.assertReset]).nextIsReset = true ∧ step (running [.assertReset]) = .next (running []).assertReset) ∧
    ((withAgenda [.host (.write 0 8 0x121#64)]).nextIsReset = false ∧
      statusAfter (withAgenda [.host (.write 0 8 0x121#64)]) = some 0x01#64) ∧
    ((running [.engine]).nextIsReset = false ∧ statusAfter (running [.engine]) = some 0x00#64) ∧
    statusAfter (withAgenda [.host (.write 0 8 0x51#64)]) = some 0x12#64 ∧
    statusAfter (running [.host (.read 0x1f8 8)]) = some 0x43#64 ∧
    ((withAgenda []).busy = false ∧ (withAgenda []).resetHeld = false ∧ (withAgenda []).agenda = []) ∧
    ((withAgenda [.engine]).busy = false ∧ (withAgenda [.engine]).agenda = [.engine]) ∧
    (running [.entropy 7#64]).agenda = [.entropy 7#64] :=
  ⟨⟨rfl, rfl⟩, ⟨rfl, by decide +kernel⟩, ⟨rfl, by decide +kernel⟩, by decide +kernel, by decide +kernel,
    ⟨rfl, rfl, rfl⟩, ⟨rfl, rfl⟩, rfl⟩

end Sys2Proof.Tests
end

section
/-! ## What a command can do (30_encoding.md R96, R100)

Said once for all 21 commands: the inversion of `exec` that every invariant of the machine stands on. -/

namespace Sys2Proof.Machine

/-- A cell that a command can put in its destination: a whole value, none, or the copy `FMOV` makes of another. -/
inductive State.CommandCell (s : State) : Cell → Prop where
  | written (v : U256) : s.CommandCell (Cell.written v)
  | unwritten : s.CommandCell Cell.unwritten
  | copied (rs : FReg) : s.CommandCell (s.cell rs)

/-- The registers after a command: as before, or with its destination replaced. -/
def State.CommandRegs (s : State) (i : Instr) (regs : RegFile) : Prop :=
  regs = s.regs ∨ ∃ rd c, destination i = some rd ∧ s.CommandCell c ∧ regs = s.regs.put rd c

/-- The flags after a command: as before, or with its own flag replaced. -/
def State.CommandFlags (s : State) (i : Instr) (flags : FlagBits) : Prop :=
  flags = s.flags ∨ ∃ k b, flagWritten i = some k ∧ flags = s.flags.put k b

/-- What the engine's run of a command can be: a completion, or one of the three draw steps of `RAND`. -/
inductive ExecKind (i : Instr) (s t : State) : Prop where
  | completed (regs : RegFile) (flags : FlagBits) (n : Nat) (hi : isRand i = false) (hregs : s.CommandRegs i regs)
      (hflags : s.CommandFlags i flags) (h : t = { s with regs := regs, flags := flags, busy := false, draws := n })
  | waiting (rd : FReg) (hi : i = .rand rd) (h : t = s)
  | rejected (rd : FReg) (hi : i = .rand rd) (w0 w1 w2 w3 : U64) (rest : List U64)
      (he : s.entropy = w0 :: w1 :: w2 :: w3 :: rest) (h : t = s.consumeFour rest)
  | accepted (rd : FReg) (hi : i = .rand rd) (w0 w1 w2 w3 : U64) (rest : List U64)
      (he : s.entropy = w0 :: w1 :: w2 :: w3 :: rest) (v : U256)
      (h : t = (s.consumeFour rest).withResult rd v)

/-- The completion of a command that writes a register. -/
theorem execKind_of_completeReg {i : Instr} {s t : State} {rd : FReg} {r : FieldResult} (hi : isRand i = false)
    (hd : destination i = some rd) (h : .next (s.completeReg rd r) = (.next t : Host.Outcome State Fault Refusal)) :
    ExecKind i s t := by
  obtain ⟨c, n, hc, hs⟩ := s.completeReg_frame rd r
  have hcell : s.CommandCell c := by
    obtain rfl | ⟨v, rfl⟩ := hc
    · exact .unwritten
    · exact .written v
  cases h
  exact .completed (s.regs.put rd c) s.flags n hi (.inr ⟨rd, c, hd, hcell, rfl⟩) (.inl rfl) hs

/-- The completion of a command that writes a flag. -/
theorem execKind_of_completeFlag {i : Instr} {s t : State} {k : Flag} {b : Option Bool} (hi : isRand i = false)
    (hk : flagWritten i = some k) (h : .next (s.completeFlag k b) = (.next t : Host.Outcome State Fault Refusal)) :
    ExecKind i s t := by
  obtain ⟨v, n, hs⟩ := s.completeFlag_frame k b
  cases h
  exact .completed s.regs (s.flags.put k v) n hi (.inl rfl) (.inr ⟨k, v, hk, rfl⟩) hs

/-- The completion of a command that writes a register and a flag. -/
theorem execKind_of_completeRegFlag {i : Instr} {s t : State} {rd : FReg} {r : FieldResult} {k : Flag}
    {b : Option Bool} (hi : isRand i = false) (hd : destination i = some rd) (hk : flagWritten i = some k)
    (h : .next (s.completeRegFlag rd r k b) = (.next t : Host.Outcome State Fault Refusal)) : ExecKind i s t := by
  obtain ⟨c, v, n, hc, hs⟩ := s.completeRegFlag_frame rd r k b
  have hcell : s.CommandCell c := by
    obtain rfl | ⟨v, rfl⟩ := hc
    · exact .unwritten
    · exact .written v
  cases h
  exact .completed (s.regs.put rd c) (s.flags.put k v) n hi (.inr ⟨rd, c, hd, hcell, rfl⟩) (.inr ⟨k, v, hk, rfl⟩) hs

/-- The engine's turn on `RAND`: a wait, a draw that is rejected or a draw that is accepted (45_sampling.md R213,
R215). -/
theorem execKind_of_execRand {rd : FReg} {s t : State} (h : execRand rd s = .next t) : ExecKind (.rand rd) s t := by
  unfold execRand at h
  split at h
  next w0 w1 w2 w3 rest he =>
    cases hv : sample (drawRaw w0 w1 w2 w3) with
    | none =>
      rw [hv] at h
      cases h
      exact .rejected rd rfl w0 w1 w2 w3 rest he rfl
    | some v =>
      rw [hv] at h
      cases h
      exact .accepted rd rfl w0 w1 w2 w3 rest he v rfl
  next =>
    cases h
    exact .waiting rd rfl rfl

/-- A run of a command that answers a next state is a completion or a draw step. -/
theorem exec_next {i : Instr} {s t : State} (h : exec i s = .next t) : ExecKind i s t := by
  cases i with
  | nop =>
    cases h
    exact .completed s.regs s.flags s.draws rfl (.inl rfl) (.inl rfl) rfl
  | fmov rd rs =>
    cases h
    exact .completed (s.regs.put rd (s.cell rs)) s.flags s.draws rfl (.inr ⟨rd, _, rfl, .copied rs, rfl⟩) (.inl rfl) rfl
  | fldc rd c =>
    change execFldc rd c s = .next t at h
    unfold execFldc at h
    split at h
    · exact execKind_of_completeReg rfl rfl h
    · cases h
  | chkovf rs => exact execKind_of_completeFlag rfl rfl h
  | feq rs1 rs2 => exact execKind_of_completeFlag rfl rfl h
  | wadd rd rs1 rs2 => exact execKind_of_completeRegFlag rfl rfl rfl h
  | wsub rd rs1 rs2 => exact execKind_of_completeRegFlag rfl rfl rfl h
  | rand rd => exact execKind_of_execRand h
  | fixovf rd rs => exact execKind_of_completeReg rfl rfl h
  | fixunf rd rs => exact execKind_of_completeReg rfl rfl h
  | fadd rd rs1 rs2 => exact execKind_of_completeReg rfl rfl h
  | fsub rd rs1 rs2 => exact execKind_of_completeReg rfl rfl h
  | fneg rd rs => exact execKind_of_completeReg rfl rfl h
  | bmul rd rs1 rs2 => exact execKind_of_completeReg rfl rfl h
  | bsqr rd rs => exact execKind_of_completeReg rfl rfl h
  | mmul rd rs1 rs2 => exact execKind_of_completeReg rfl rfl h
  | msqr rd rs => exact execKind_of_completeReg rfl rfl h
  | tomont rd rs => exact execKind_of_completeReg rfl rfl h
  | frommont rd rs => exact execKind_of_completeReg rfl rfl h
  | pow rd rs1 rs2 => exact execKind_of_completeReg rfl rfl h
  | inv rd rs => exact execKind_of_completeReg rfl rfl h

end Sys2Proof.Machine
end

section
/-! ## What a step changes (20_memory.md R75, R76)

`StepKind` (Laws/Step.lean) gives a step by its agent; `StepEffect` gives it by what it changes, each case with its
cause in the terms of Safety.lean, so that a whole-machine rule is one case analysis. -/

namespace Sys2Proof.Machine

/-- A command that `decode` accepts is the one the latch holds: its bits 63:32 are zero (30_encoding.md R99, R102). -/
theorem latchedCommand_of_decode {w : U64} {i : Instr} (h : decode w = .legal i) :
    latchedCommand (w.setWidth 32) = some i := by
  have hhigh : w.extractLsb' 32 32 = 0#32 := by
    by_contra hne
    rw [decode, if_pos hne] at h
    cases h
  have hw : (w.setWidth 32).setWidth 64 = w := by
    have h0 := congrArg BitVec.toNat hhigh
    simp only [BitVec.extractLsb'_toNat, Nat.shiftRight_eq_div_pow, BitVec.toNat_ofNat] at h0
    apply BitVec.eq_of_toNat_eq
    simp only [BitVec.toNat_setWidth]
    omega
  rw [latchedCommand, hw, h]
  rfl

/-- What a step that is no reset changes, and why. -/
inductive StepEffect (s t : State) : Prop where
  /-- No register, flag, `STATUS` bit or latch changes. -/
  | quiet (held : Bool) (es : List U64) (replies : List Reply) (n : Nat) (hheld : held = true → s.resetHeld = true)
      (hes : es = s.entropy ∨ ∃ w rest, s.agenda = .entropy w :: rest ∧ es = s.entropy ++ [w])
      (h : t = { s.afterTurn with resetHeld := held, entropy := es, replies := replies, draws := n })
  /-- An access records the first fault. -/
  | violated (c : Cause) (replies : List Reply) (n : Nat) (hr : s.resetHeld = false) (hf : s.fault = false)
      (hv : s.violates c)
      (h : t = { s.afterTurn with fault := true, cause := causeCode c, replies := replies, draws := n })
  /-- A write to `CMD` is accepted. -/
  | accepted (w : U64) (replies : List Reply) (hw : s.accepts w)
      (h : t = { s.afterTurn with cmdLatch := w.setWidth 32, busy := true, replies := replies })
  /-- A host write replaces one limb. -/
  | limb (i : FReg) (j : LimbIx) (w : U64) (rest : List Event) (replies : List Reply) (hr : s.resetHeld = false)
      (hb : s.busy = false) (ha : s.agenda = .host (.write (s.base + windowOffset (.limb i j)) 8 w) :: rest)
      (h : t = { s.afterTurn with regs := s.regs.put i ((s.cell i).putLimb j w), replies := replies })
  /-- The engine runs the latched command. -/
  | command (i : Instr) (turn : s.engineTurn = true) (hb : s.busy = true) (hr : s.resetHeld = false)
      (hl : latchedCommand s.cmdLatch = some i) (h : exec i s.afterTurn = .next t)

/-- A write to `CTRL` with bit 0 clear does nothing (10_state.md R42). -/
theorem State.writeCtrl_of_clear (s : State) {w : U64} (h : w.getLsbD 0 = false) : s.writeCtrl w = s := by
  rw [State.writeCtrl, h]
  rfl

/-- A write to `CTRL` with bit 0 set is the soft reset (46_move_system.md R226). -/
theorem State.writeCtrl_of_set (s : State) {w : U64} (h : w.getLsbD 0 = true) : s.writeCtrl w = s.toReset := by
  rw [State.writeCtrl, h]
  rfl

/-- A read of a limb in phase BUSY raises the fault of R72 and returns a free value. -/
theorem State.afterRead_limb_of_busy {s : State} (hb : s.busy = true) (i : FReg) (j : LimbIx) :
    s.afterRead (.limb i j) = (s.raiseFault .busyViolation).countDraw := by
  simp [State.afterRead, windowWord, State.readFault, hb]

/-- A read of a limb in phase IDLE changes nothing but the number of draws taken. -/
theorem State.afterRead_limb_of_idle {s : State} (hb : s.busy = false) (i : FReg) (j : LimbIx) :
    ∃ n, s.afterRead (.limb i j) = { s with draws := n } := by
  cases hl : (s.cell i).limb? j with
  | some w =>
    have hs : s.afterRead (.limb i j) = s := by simp [State.afterRead, windowWord, State.readFault, hb, hl]
    exact ⟨s.draws, hs⟩
  | none => exact ⟨s.draws + 1, by simp [State.afterRead, windowWord, State.readFault, hb, hl, State.countDraw]⟩

/-- A step that only answers and counts draws. -/
theorem stepEffect_of_answer {s t : State} (replies : List Reply) (n : Nat)
    (h : t = { s.afterTurn with replies := replies, draws := n }) : StepEffect s t :=
  .quiet s.resetHeld s.entropy replies n id (.inl rfl) h

/-- A step that raises a fault records it, or finds one recorded and only answers. -/
theorem stepEffect_of_raiseFault {s t : State} {c : Cause} (replies : List Reply) (n : Nat) (hr : s.resetHeld = false)
    (hv : s.violates c) (h : t = { s.afterTurn.raiseFault c with replies := replies, draws := n }) :
    StepEffect s t := by
  obtain ⟨_, hs⟩ | ⟨hf, hs⟩ := s.afterTurn.raiseFault_cases c
  · exact stepEffect_of_answer replies n (by rw [h, hs])
  · exact .violated c replies n hr hf hv (by rw [h, hs])

/-- A host read, as what it changes (20_memory.md R68, R72). -/
theorem stepEffect_of_read {s : State} {r : WindowReg} {rest : List Event} (p : Reply) (hr : s.resetHeld = false)
    (ha : s.agenda = .host (.read (s.base + windowOffset r) 8) :: rest) :
    StepEffect s ((s.afterTurn.afterRead r).record p) := by
  cases r with
  | limb i j =>
    cases hb : s.busy with
    | true =>
      rw [State.afterRead_limb_of_busy (s := s.afterTurn) hb]
      refine stepEffect_of_raiseFault (p :: s.replies) (s.draws + 1) hr
        (.inr ⟨hb, rfl, rest, .inr (.inr ⟨i, j, ha⟩)⟩) ?_
      simp [State.record, State.countDraw]
    | false =>
      obtain ⟨n, hn⟩ := State.afterRead_limb_of_idle (s := s.afterTurn) hb i j
      exact stepEffect_of_answer (p :: s.replies) n (by rw [hn]; rfl)
  | _ => exact stepEffect_of_answer (p :: s.replies) s.draws rfl

/-- A write to `CMD`, as what it changes (30_encoding.md R99). -/
theorem stepEffect_of_acceptCommand {s : State} {w : U64} {rest : List Event} (p : Reply) (hr : s.resetHeld = false)
    (ha : s.agenda = .host (.write s.base 8 w) :: rest) :
    StepEffect s ((s.afterTurn.acceptCommand w).record p) := by
  obtain ⟨_, he⟩ | ⟨_, hb, he⟩ | ⟨_, hb, c, hd, he⟩ | ⟨hf, hb, i, hd, he⟩ := s.afterTurn.acceptCommand_cases w <;>
    rw [he]
  · exact stepEffect_of_answer (p :: s.replies) s.draws rfl
  · refine stepEffect_of_raiseFault (p :: s.replies) s.draws hr (.inr ⟨hb, rfl, rest, .inl ⟨w, ha⟩⟩) ?_
    simp [State.record]
  · refine stepEffect_of_raiseFault (p :: s.replies) s.draws hr (.inl ⟨hb, w, rest, ha, hd⟩) ?_
    simp [State.record]
  · exact .accepted w (p :: s.replies) ⟨hr, hf, hb, ⟨i, hd⟩, rest, ha⟩ rfl

/-- A host write that is no soft reset, as what it changes (20_memory.md R66, R69, R72; 10_state.md R42). -/
theorem stepEffect_of_write {s : State} {r : WindowReg} {w : U64} {rest : List Event} (p : Reply)
    (hr : s.resetHeld = false) (ha : s.agenda = .host (.write (s.base + windowOffset r) 8 w) :: rest)
    (hc : r = .ctrl → w.getLsbD 0 = false) : StepEffect s ((s.afterTurn.busWrite r w).record p) := by
  cases r with
  | cmd => exact stepEffect_of_acceptCommand p hr ha
  | status => exact stepEffect_of_answer (p :: s.replies) s.draws rfl
  | flags => exact stepEffect_of_answer (p :: s.replies) s.draws rfl
  | ctrl =>
    refine stepEffect_of_answer (p :: s.replies) s.draws ?_
    rw [State.busWrite, State.writeCtrl_of_clear _ (hc rfl)]
    rfl
  | limb i j =>
    cases hb : s.busy with
    | true =>
      refine stepEffect_of_raiseFault (p :: s.replies) s.draws hr (.inr ⟨hb, rfl, rest, .inr (.inl ⟨i, j, w, ha⟩)⟩) ?_
      simp [State.busWrite, State.writeLimb, hb, State.record]
    | false =>
      refine .limb i j w rest (p :: s.replies) hr hb ha ?_
      simp [State.busWrite, State.writeLimb, hb, State.record, State.putCell, State.cell]

/-- Every step that is no reset, as what it changes. -/
theorem StepKind.effect {s t : State} (k : StepKind s t) : StepEffect s t := by
  cases k with
  | idle h => exact stepEffect_of_answer s.replies s.draws h
  | entropy w rest ha h => exact .quiet s.resetHeld _ s.replies s.draws id (.inr ⟨w, rest, ha, rfl⟩) h
  | release rest ha h => exact .quiet false s.entropy s.replies s.draws (by simp) (.inl rfl) h
  | command i turn hb hr hl h => exact .command i turn hb hr hl h
  | read r rest hr ha h => exact h ▸ stepEffect_of_read _ hr ha
  | write r w rest hr ha hc h => exact h ▸ stepEffect_of_write _ hr ha hc

/-- A step that answers a next state is a reset, which leaves the FAU in the reset state, or changes what `StepEffect`
says. -/
theorem step_effect {s t : State} (h : step s = .next t) :
    (s.nextIsReset = true ∧ ∃ held replies, t = { s.afterTurn.toReset with resetHeld := held, replies := replies }) ∨
    (s.nextIsReset = false ∧ StepEffect s t) := by
  obtain ⟨hn, rfl | ⟨_, rfl⟩⟩ | ⟨hn, k⟩ := step_next h
  · exact .inl ⟨hn, true, s.replies, rfl⟩
  · exact .inl ⟨hn, s.resetHeld, .done :: s.replies, rfl⟩
  · exact .inr ⟨hn, k.effect⟩

end Sys2Proof.Machine
end

section
/-! ## Whole-machine rules (10_state.md R27, R40, R47, R49, R50) -/

namespace Sys2Proof.Machine

/-! ### What a command changes -/

/-- A command changes no register but its destination. -/
theorem ExecKind.regs {i : Instr} {s t : State} (k : ExecKind i s t) : s.CommandRegs i t.regs := by
  cases k with
  | completed regs flags n hi hregs hflags h => exact h ▸ hregs
  | waiting rd hi h => exact .inl (h ▸ rfl)
  | rejected rd hi w0 w1 w2 w3 rest he h => exact .inl (h ▸ rfl)
  | accepted rd hi w0 w1 w2 w3 rest he v h => exact .inr ⟨rd, _, hi ▸ rfl, .written v, h ▸ rfl⟩

/-- A command changes no flag but its own. -/
theorem ExecKind.flags {i : Instr} {s t : State} (k : ExecKind i s t) : s.CommandFlags i t.flags := by
  cases k with
  | completed regs flags n hi hregs hflags h => exact h ▸ hflags
  | waiting rd hi h => exact .inl (h ▸ rfl)
  | rejected rd hi w0 w1 w2 w3 rest he h => exact .inl (h ▸ rfl)
  | accepted rd hi w0 w1 w2 w3 rest he v h => exact .inl (h ▸ rfl)

/-- A command records no fault and leaves the latch and the reset input. -/
theorem ExecKind.frame {i : Instr} {s t : State} (k : ExecKind i s t) :
    t.fault = s.fault ∧ t.cause = s.cause ∧ t.cmdLatch = s.cmdLatch ∧ t.resetHeld = s.resetHeld := by
  cases k with
  | completed regs flags n hi hregs hflags h => subst h; exact ⟨rfl, rfl, rfl, rfl⟩
  | waiting rd hi h => subst h; exact ⟨rfl, rfl, rfl, rfl⟩
  | rejected rd hi w0 w1 w2 w3 rest he h => subst h; exact ⟨rfl, rfl, rfl, rfl⟩
  | accepted rd hi w0 w1 w2 w3 rest he v h => subst h; exact ⟨rfl, rfl, rfl, rfl⟩

/-- Only a draw step of `RAND` consumes entropy, four words of it. -/
theorem ExecKind.entropy {i : Instr} {s t : State} (k : ExecKind i s t) :
    (t.entropy = s.entropy ∧ t.entropyPos = s.entropyPos) ∨
    (t.entropyPos = s.entropyPos + 4 ∧ (∃ w0 w1 w2 w3, s.entropy = w0 :: w1 :: w2 :: w3 :: t.entropy) ∧
      ∃ rd, i = .rand rd) := by
  cases k with
  | completed regs flags n hi hregs hflags h => subst h; exact .inl ⟨rfl, rfl⟩
  | waiting rd hi h => subst h; exact .inl ⟨rfl, rfl⟩
  | rejected rd hi w0 w1 w2 w3 rest he h => subst h; exact .inr ⟨rfl, ⟨w0, w1, w2, w3, he⟩, rd, hi⟩
  | accepted rd hi w0 w1 w2 w3 rest he v h => subst h; exact .inr ⟨rfl, ⟨w0, w1, w2, w3, he⟩, rd, hi⟩

/-! ### The clauses of the invariant -/

/-- A cell in the canonical form of `State.UnwrittenClear`. -/
def Cell.Clear (c : Cell) : Prop := ∀ j, c.marks.get j = false → limb c.value j = 0#64

theorem Cell.clear_written (v : U256) : (Cell.written v).Clear := by
  intro j h
  rw [Cell.written_get] at h
  cases h

theorem Cell.clear_unwritten : Cell.unwritten.Clear := fun j _ => by
  cases j <;> rfl

/-- A write of one limb marks it, so the canonical form is kept. -/
theorem Cell.Clear.putLimb {c : Cell} (hc : c.Clear) (j : LimbIx) (w : U64) : (c.putLimb j w).Clear := by
  intro k hk
  simp only [Cell.putLimb, LimbMarks.get_mark, limb_setLimb] at hk ⊢
  by_cases hkj : k = j
  · rw [if_pos hkj] at hk
    cases hk
  · rw [if_neg hkj] at hk ⊢
    exact hc k hk

theorem State.CommandCell.clear {s : State} {c : Cell} (h : s.CommandCell c) (hs : s.UnwrittenClear) : c.Clear := by
  cases h with
  | written v => exact Cell.clear_written v
  | unwritten => exact Cell.clear_unwritten
  | copied rs => exact hs rs

/-- Replacing a register by a cell in canonical form keeps the form of the machine. -/
theorem State.UnwrittenClear.put {s t : State} (hs : s.UnwrittenClear) {i : FReg} {c : Cell} (hc : c.Clear)
    (h : t.regs = s.regs.put i c) : t.UnwrittenClear := by
  intro r
  have hr : t.cell r = if r = i then c else s.cell r := by
    rw [State.cell, h, RegFile.get_put]
    rfl
  rw [hr]
  split
  · exact hc
  · exact hs r

/-- The registers of a command's next state are in canonical form. -/
theorem State.UnwrittenClear.command {s t : State} {i : Instr} (hs : s.UnwrittenClear)
    (h : s.CommandRegs i t.regs) : t.UnwrittenClear := by
  obtain h | ⟨rd, c, _, hc, h⟩ := h
  · intro r
    rw [State.cell, h]
    exact hs r
  · exact hs.put (hc.clear hs) h

/-- A machine whose reset input is released has nothing to hold. -/
theorem State.resetHolds_of_released {s : State} (h : s.resetHeld = false) : s.ResetHolds := by
  intro h'
  rw [h] at h'
  cases h'

/-- Every cause has a code of 1 to 4 (60_exceptions.md R231). -/
theorem causeCode_bounds (c : Cause) : 1 ≤ (causeCode c).toNat ∧ (causeCode c).toNat ≤ 4 := by
  cases c <;> decide

/-- The reset state meets the invariant, whatever the fields hold that a reset leaves. -/
theorem State.inv_toReset (s : State) (held : Bool) (replies : List Reply) :
    ({ s.toReset with resetHeld := held, replies := replies } : State).Inv where
  causeLegal := ⟨fun _ => rfl, (by cases ·)⟩
  latchLegal := (by cases ·)
  resetHolds := fun _ => rfl
  unwrittenClear := fun r => by cases r <;> exact Cell.clear_unwritten

/-- What a step that is no reset changes keeps the invariant. -/
theorem StepEffect.inv {s t : State} (k : StepEffect s t) (hi : s.Inv) : t.Inv := by
  obtain ⟨hcause, hlatch, hreset, hclear⟩ := hi
  cases k with
  | quiet held es replies n hheld hes h =>
    subst h
    refine ⟨hcause, hlatch, fun hh => ?_, hclear⟩
    have hs : s.toReset = s := hreset (hheld hh)
    exact congrArg (fun u : State =>
      { u.afterTurn with resetHeld := held, entropy := es, replies := replies, draws := n }) hs
  | violated c replies n hr hf hv h =>
    subst h
    exact ⟨⟨(by cases ·), fun _ => causeCode_bounds c⟩, hlatch, State.resetHolds_of_released hr, hclear⟩
  | accepted w replies hw h =>
    subst h
    obtain ⟨hr, _, _, ⟨i, hd⟩, _⟩ := hw
    refine ⟨hcause, fun _ => ?_, State.resetHolds_of_released hr, hclear⟩
    exact Option.isSome_of_eq_some (latchedCommand_of_decode hd)
  | limb i j w rest replies hr hb ha h =>
    subst h
    exact ⟨hcause, hlatch, State.resetHolds_of_released hr, hclear.put (Cell.Clear.putLimb (hclear i) j w) rfl⟩
  | command i turn hb hr hl h =>
    have k := exec_next h
    obtain ⟨hfault, hcode, hword, hheld⟩ := k.frame
    refine ⟨?_, fun _ => ?_, State.resetHolds_of_released (hheld.trans hr),
      State.UnwrittenClear.command (s := s.afterTurn) hclear k.regs⟩
    · rw [State.CauseLegal, hfault, hcode]
      exact hcause
    · rw [hword]
      exact Option.isSome_of_eq_some hl

/-! ### The obligations -/

/-- Settles O9: the reset state is its own reset. -/
theorem resetMeetsTheInvariant : Obligations.ResetMeetsTheInvariant :=
  State.inv_toReset State.reset false []

/-- Settles O10, by the case analysis of `step_effect`. -/
theorem everyStepKeepsTheInvariant : Obligations.EveryStepKeepsTheInvariant := by
  intro s t hi h
  obtain ⟨_, held, replies, rfl⟩ | ⟨_, k⟩ := step_effect h
  · exact s.afterTurn.inv_toReset held replies
  · exact k.inv hi

/-- A command that changed a flag is the command of that flag, and changed no other (10_state.md R27). -/
theorem flagWritten_of_flags_ne {i : Instr} {s t : State} (h : s.CommandFlags i t.flags) {k : Flag}
    (hk : t.flags.get k ≠ s.flags.get k) :
    flagWritten i = some k ∧ ∀ m, m ≠ k → t.flags.get m = s.flags.get m := by
  obtain h | ⟨k', b, hw, h⟩ := h
  · exact absurd (congrArg (FlagBits.get · k) h) hk
  · rw [h] at hk ⊢
    have hkk : k = k' := by
      by_contra hne
      exact hk (by rw [FlagBits.get_put, if_neg hne])
    subst hkk
    exact ⟨hw, fun m hm => by rw [FlagBits.get_put, if_neg hm]⟩

/-- Settles O12. -/
theorem flagsChangeOnlyByTheirCommand : Obligations.FlagsChangeOnlyByTheirCommand := by
  intro s t h
  obtain ⟨hn, held, replies, rfl⟩ | ⟨hn, k⟩ := step_effect h
  · refine ⟨fun _ k => by cases k <;> rfl, fun hn' => ?_⟩
    rw [hn] at hn'
    cases hn'
  · refine ⟨fun hn' => ?_, fun _ f hf => ?_⟩
    · rw [hn] at hn'
      cases hn'
    · cases k with
      | quiet held es replies n hheld hes h => exact absurd (h ▸ rfl) hf
      | violated c replies n hr hf' hv h => exact absurd (h ▸ rfl) hf
      | accepted w replies hw h => exact absurd (h ▸ rfl) hf
      | limb i j w rest replies hr hb ha h => exact absurd (h ▸ rfl) hf
      | command i turn hb hr hl h =>
        obtain ⟨hw, hrest⟩ := flagWritten_of_flags_ne (s := s.afterTurn) (exec_next h).flags hf
        exact ⟨turn, hb, ⟨i, hl, hw⟩, hrest⟩

/-- Settles O14. -/
theorem entropyAdvancesOnlyByDraws : Obligations.EntropyAdvancesOnlyByDraws := by
  intro s t h
  obtain ⟨_, held, replies, rfl⟩ | ⟨_, k⟩ := step_effect h
  · exact .inl ⟨rfl, .inl rfl⟩
  · cases k with
    | quiet held es replies n hheld hes h => subst h; exact .inl ⟨rfl, hes⟩
    | violated c replies n hr hf hv h => subst h; exact .inl ⟨rfl, .inl rfl⟩
    | accepted w replies hw h => subst h; exact .inl ⟨rfl, .inl rfl⟩
    | limb i j w rest replies hr hb ha h => subst h; exact .inl ⟨rfl, .inl rfl⟩
    | command i turn hb hr hl h =>
      obtain ⟨he, hp⟩ | ⟨hp, he, rd, rfl⟩ := (exec_next h).entropy
      · exact .inl ⟨hp, .inl he⟩
      · exact .inr ⟨hp, he, turn, hb, rd, hl⟩

end Sys2Proof.Machine
end

section
/-! ## `STATUS` and `CMDLATCH` (10_state.md R40, R47) -/

namespace Sys2Proof.Machine

/-- `BUSY` is set only by accepting a command. -/
theorem StepEffect.accepts_of_busy {s t : State} (k : StepEffect s t) (hs : s.busy = false) (ht : t.busy = true) :
    ∃ w, s.accepts w ∧ t.cmdLatch = w.setWidth 32 := by
  cases k with
  | accepted w replies hw h => exact ⟨w, hw, h ▸ rfl⟩
  | quiet held es replies n hheld hes h => subst h; exact absurd (hs.symm.trans ht) Bool.false_ne_true
  | violated c replies n hr hf hv h => subst h; exact absurd (hs.symm.trans ht) Bool.false_ne_true
  | limb i j w rest replies hr hb ha h => subst h; exact absurd (hs.symm.trans ht) Bool.false_ne_true
  | command i turn hb hr hl h => exact absurd (hs.symm.trans hb) Bool.false_ne_true

/-- `BUSY` is cleared only by the engine running the latched command. -/
theorem StepEffect.command_of_idle {s t : State} (k : StepEffect s t) (hs : s.busy = true) (ht : t.busy = false) :
    s.engineTurn = true ∧ s.resetHeld = false ∧
      ∃ i, latchedCommand s.cmdLatch = some i ∧ exec i s.afterTurn = .next t := by
  cases k with
  | command i turn hb hr hl h => exact ⟨turn, hr, i, hl, h⟩
  | quiet held es replies n hheld hes h => subst h; exact absurd (ht.symm.trans hs) Bool.false_ne_true
  | violated c replies n hr hf hv h => subst h; exact absurd (ht.symm.trans hs) Bool.false_ne_true
  | accepted w replies hw h => subst h; cases ht
  | limb i j w rest replies hr hb ha h => subst h; exact absurd (ht.symm.trans hs) Bool.false_ne_true

/-- `CMDLATCH` changes only by accepting a command. -/
theorem StepEffect.accepts_of_cmdLatch_ne {s t : State} (k : StepEffect s t) (ht : t.cmdLatch ≠ s.cmdLatch) :
    ∃ w, s.accepts w ∧ t.cmdLatch = w.setWidth 32 ∧ t.busy = true := by
  cases k with
  | accepted w replies hw h => exact ⟨w, hw, h ▸ rfl, h ▸ rfl⟩
  | quiet held es replies n hheld hes h => exact absurd (h ▸ rfl) ht
  | violated c replies n hr hf hv h => exact absurd (h ▸ rfl) ht
  | limb i j w rest replies hr hb ha h => exact absurd (h ▸ rfl) ht
  | command i turn hb hr hl h =>
    obtain ⟨_, _, hlatch, _⟩ := (exec_next h).frame
    exact absurd hlatch ht

/-- A step leaves `FAULT` and `CAUSE`, or records the first fault. -/
theorem StepEffect.fault_cases {s t : State} (k : StepEffect s t) :
    (t.fault = s.fault ∧ t.cause = s.cause) ∨
    (s.fault = false ∧ t.fault = true ∧ ∃ c, s.violates c ∧ t.cause = causeCode c) := by
  cases k with
  | violated c replies n hr hf hv h => subst h; exact .inr ⟨hf, rfl, c, hv, rfl⟩
  | quiet held es replies n hheld hes h => subst h; exact .inl ⟨rfl, rfl⟩
  | accepted w replies hw h => subst h; exact .inl ⟨rfl, rfl⟩
  | limb i j w rest replies hr hb ha h => subst h; exact .inl ⟨rfl, rfl⟩
  | command i turn hb hr hl h =>
    obtain ⟨hfault, hcause, _, _⟩ := (exec_next h).frame
    exact .inl ⟨hfault, hcause⟩

/-- In phase IDLE the engine's turn changes nothing (30_encoding.md R100). -/
theorem engineStep_of_idle {s : State} (hb : s.busy = false) : engineStep s = .next s := by
  simp only [engineStep, hb, Bool.false_and, Bool.false_eq_true, if_false]

/-- Settles O60. -/
theorem statusAndLatchChangeOnlyByTheirSteps : Obligations.StatusAndLatchChangeOnlyByTheirSteps := by
  intro s
  refine ⟨fun t h => ?_, fun hb _ => ⟨fun ha => ?_, fun rest ha => ?_⟩, fun w rest ha => ?_⟩
  · obtain ⟨hn, held, replies, rfl⟩ | ⟨hn, k⟩ := step_effect h
    · exact ⟨fun _ => ⟨rfl, rfl, rfl⟩, fun hn' => absurd (hn'.symm.trans hn) Bool.false_ne_true⟩
    · refine ⟨fun hn' => absurd (hn.symm.trans hn') Bool.false_ne_true, fun _ => ⟨k.accepts_of_busy,
        k.command_of_idle, k.accepts_of_cmdLatch_ne, fun hne => ?_⟩⟩
      obtain ⟨hfault, hcause⟩ | hv := k.fault_cases
      · exact absurd ⟨hfault, hcause⟩ (not_and_or.2 hne)
      · exact hv
  · simp only [step, nextStep, ha]
    exact engineStep_of_idle hb
  · simp only [step, nextStep, ha]
    exact engineStep_of_idle hb
  · simp only [step, nextStep, ha, takeEvent, State.supplyEntropy]

end Sys2Proof.Machine
end

section
/-! ## Host accesses to `STATUS`, `FLAGS` and `CTRL` (10_state.md R26, R40, R42, R43) -/

namespace Sys2Proof.Machine

/-! ### The host's next access, as a step -/

/-- The step of the host's next access. -/
theorem step_of_hostNext {s : State} {a : HostAccess} {rest : List Event} (h : s.hostNext a rest) :
    step s = hostStep a { s with agenda := rest } := by
  simp only [step, nextStep, h.2, takeEvent]

/-- An access that the port answers, out of reset, is a step. -/
theorem hostStep_of_answered {s u : State} {a : HostAccess} {p : Reply} (hr : s.resetHeld = false)
    (hb : s.busAccess a = .answered p u) : hostStep a s = .next (u.record p) := by
  simp only [hostStep, hr, hb, Bool.false_eq_true, if_false]

/-- A well-formed write of the host, as the step it is. -/
theorem step_of_write {s : State} {r : WindowReg} {w : U64} {rest : List Event}
    (h : s.hostNext (.write (s.base + windowOffset r) 8 w) rest) :
    step s = .next ((({ s with agenda := rest } : State).busWrite r w).record .done) :=
  (step_of_hostNext h).trans (hostStep_of_answered h.1 (busAccess_write { s with agenda := rest } r w))

/-- A well-formed read of the host, as the step it is. -/
theorem step_of_read {s : State} {r : WindowReg} {rest : List Event}
    (h : s.hostNext (.read (s.base + windowOffset r) 8) rest) :
    step s = .next ((({ s with agenda := rest } : State).afterRead r).record
      (.data (readData { s with agenda := rest } r))) :=
  (step_of_hostNext h).trans (hostStep_of_answered h.1 (busAccess_read { s with agenda := rest } r))

/-! ### The bits of the read-only words -/

theorem statusWord_getLsbD (s : State) (k : Nat) :
    (statusWord s).getLsbD k = (if k = 0 then s.busy else if k = 1 then s.fault
      else if 4 ≤ k ∧ k < 8 then s.cause.getLsbD (k - 4) else false) := by
  simp only [statusWord, BitVec.getLsbD_append, BitVec.getLsbD_ofBool, BitVec.getLsbD_zero]
  grind

theorem flagsWord_getLsbD (f : FlagBits) (k : Nat) :
    (flagsWord f).getLsbD k = (if k = 0 then f.ovf else if k = 1 then f.eq
      else if k = 2 then f.cry else if k = 3 then f.brw else false) := by
  simp only [flagsWord, BitVec.getLsbD_append, BitVec.getLsbD_ofBool, BitVec.getLsbD_zero]
  grind

/-- Settles O27: the data are `statusWord` and `flagsWord`, whose bits are given above. -/
theorem statusAndFlagsReadOut : Obligations.StatusAndFlagsReadOut := by
  intro s rest
  exact ⟨fun h => ⟨statusWord s, step_of_read (r := .status) h, statusWord_getLsbD s⟩,
    fun h => ⟨flagsWord s.flags, step_of_read (r := .flags) h, flagsWord_getLsbD s.flags⟩⟩

/-! ### The soft reset -/

/-- A reset leads to the reset state of the table of R50. -/
theorem State.isReset_toReset (s : State) : s.toReset.IsReset := by
  have hcell : ∀ r, s.toReset.cell r = Cell.unwritten := fun r => by cases r <;> rfl
  refine ⟨fun r => ?_, fun r j => ?_, rfl, rfl, rfl, rfl⟩
  · rw [State.source, hcell, Cell.unwritten_value?]
  · rw [hcell, Cell.unwritten_limb?]

/-- Settles O8. -/
theorem resetHoldsNoValueAndIdles : Obligations.ResetHoldsNoValueAndIdles :=
  ⟨State.reset.isReset_toReset, by decide, by decide, rfl⟩

/-- Bit 0 of a word is its parity. -/
theorem getLsbD_zero_eq (w : U64) : w.getLsbD 0 = decide (w.toNat % 2 = 1) := by
  simp [BitVec.getLsbD, Nat.testBit_zero]

/-- Settles O28. -/
theorem ctrlWriteIsTheSoftReset : Obligations.CtrlWriteIsTheSoftReset := by
  intro s w rest
  refine ⟨fun h => ⟨fun hodd => ?_, fun heven => ?_⟩, fun h => step_of_read (r := .ctrl) h⟩
  · have hbit : w.getLsbD 0 = true := by rw [getLsbD_zero_eq, hodd]; rfl
    have hstep := step_of_write (r := .ctrl) h
    rw [State.busWrite, State.writeCtrl_of_set _ hbit] at hstep
    exact ⟨_, hstep, State.isReset_toReset { s with agenda := rest }, rfl, rfl, h.1, rfl, rfl, rfl⟩
  · have hbit : w.getLsbD 0 = false := by rw [getLsbD_zero_eq, heven]; rfl
    have hstep := step_of_write (r := .ctrl) h
    rw [State.busWrite, State.writeCtrl_of_clear _ hbit] at hstep
    exact hstep

end Sys2Proof.Machine
end

section
/-! ## A register written limb by limb (10_state.md R51, 20_memory.md R67) -/

namespace Sys2Proof.Machine

/-- The marks after writing the limbs of `v` that a list names. -/
theorem foldl_putLimb_get (v : U256) (js : List LimbIx) (c : Cell) (k : LimbIx) :
    (js.foldl (fun c j => c.putLimb j (limb v j)) c).marks.get k = (decide (k ∈ js) || c.marks.get k) := by
  induction js generalizing c with
  | nil => simp
  | cons j js ih =>
    rw [List.foldl_cons, ih]
    by_cases hk : k = j <;> simp [Cell.putLimb, hk]

/-- The limbs after writing the limbs of `v` that a list names. -/
theorem foldl_putLimb_limb (v : U256) (js : List LimbIx) (c : Cell) (k : LimbIx) :
    limb (js.foldl (fun c j => c.putLimb j (limb v j)) c).value k = if k ∈ js then limb v k else limb c.value k := by
  induction js generalizing c with
  | nil => simp
  | cons j js ih =>
    rw [List.foldl_cons, ih]
    by_cases hk : k = j <;> simp [Cell.putLimb, hk]

/-- The limbs of an element determine it. -/
theorem eq_of_limb_eq {x y : U256} (h : ∀ j, limb x j = limb y j) : x = y := by
  rw [← ofLimbs_limb x, ← ofLimbs_limb y, h, h, h, h]

/-- The four marks determine the marks of a cell. -/
theorem LimbMarks.eq_of_get_eq {m n : LimbMarks} (h : ∀ j, m.get j = n.get j) : m = n := by
  cases m
  cases n
  congr
  exacts [h .l0, h .l1, h .l2, h .l3]

/-- A cell that marks every limb and holds the limbs of `v` is `v`, written. -/
theorem Cell.eq_written {c : Cell} {v : U256} (hm : ∀ j, c.marks.get j = true) (hv : ∀ j, limb c.value j = limb v j) :
    c = Cell.written v := by
  have hmarks : c.marks = (Cell.written v).marks := LimbMarks.eq_of_get_eq fun j => by rw [hm, Cell.written_get]
  have hvalue : c.value = v := eq_of_limb_eq hv
  cases c
  cases hmarks
  cases hvalue
  rfl

/-- A cell with an unmarked limb carries no value. -/
theorem Cell.value?_eq_none {c : Cell} {j : LimbIx} (h : c.marks.get j = false) : c.value? = none := by
  rw [Cell.value?, if_neg]
  intro hall
  rw [(LimbMarks.all_iff c.marks).1 hall j] at h
  cases h

/-- An unmarked limb carries no value. -/
theorem Cell.limb?_eq_none {c : Cell} {j : LimbIx} (h : c.marks.get j = false) : c.limb? j = none := by
  rw [Cell.limb?, h]
  rfl

/-- Settles O23, by what the writes leave in each mark and each limb. -/
theorem registerIsWrittenWhenAllLimbsAre : Obligations.RegisterIsWrittenWhenAllLimbsAre := by
  intro c v js
  refine ⟨fun hall => Cell.eq_written (fun j => ?_) (fun j => ?_), fun j hj hc => ?_⟩
  · rw [foldl_putLimb_get, decide_eq_true (hall j), Bool.true_or]
  · rw [foldl_putLimb_limb, if_pos (hall j)]
  · have hmark := foldl_putLimb_get v js c j
    rw [hc, decide_eq_false hj, Bool.false_or] at hmark
    exact ⟨Cell.value?_eq_none hmark, Cell.limb?_eq_none hmark⟩

end Sys2Proof.Machine
end

section
/-! ## Unwritten sources (93_implementation_defined.md U1) -/

namespace Sys2Proof.Machine

theorem testTwo_of_unwritten (f : U256 → U256 → Bool) {x y : Option U256} (h : x = none ∨ y = none) :
    testTwo f x y = none := by
  obtain rfl | rfl := h
  · rfl
  · cases x <;> rfl

theorem totalTwo_of_unwritten (f : U256 → U256 → U256) {x y : Option U256} (h : x = none ∨ y = none) :
    totalTwo f x y = .unwritten := by
  obtain rfl | rfl := h
  · rfl
  · cases x <;> rfl

theorem modularTwo_of_unwritten (f : U256 → U256 → U256) {x y : Option U256} (h : x = none ∨ y = none) :
    modularTwo f x y = .unwritten := by
  obtain rfl | rfl := h
  · rfl
  · cases x <;> rfl

theorem modularBase_of_unwritten (f : U256 → U256 → U256) {x y : Option U256} (h : x = none ∨ y = none) :
    modularBase f x y = .unwritten := by
  obtain rfl | rfl := h
  · rfl
  · cases x <;> rfl

/-- A command whose result is unwritten ends in the state of U1. -/
theorem next_completeReg_of_unwritten (s : State) (rd : FReg) {r : FieldResult} (h : r = .unwritten) :
    (.next (s.completeReg rd r) : Host.Outcome State Fault Refusal) = .next (s.withUnwrittenResult rd) := by
  rw [h]
  rfl

/-- A command whose flag comes from an unwritten source ends with a free bit in it. -/
theorem next_completeFlag_of_unwritten (s : State) (k : Flag) {b : Option Bool} (h : b = none) :
    (.next (s.completeFlag k b) : Host.Outcome State Fault Refusal) = .next (s.withFreeFlag k) := by
  rw [h]
  rfl

/-- A wide command with an unwritten source: both at once. -/
theorem next_completeRegFlag_of_unwritten (s : State) (rd : FReg) (k : Flag) {r : FieldResult} {b : Option Bool}
    (hr : r = .unwritten) (hb : b = none) :
    (.next (s.completeRegFlag rd r k b) : Host.Outcome State Fault Refusal) =
      .next ((s.withFreeFlag k).withUnwrittenResult rd) := by
  rw [hr, hb]
  rfl

/-- Settles O59: each command's result on an unwritten source is `unwritten`, and its flag none. -/
theorem unwrittenSourcesGiveUnwrittenResults : Obligations.UnwrittenSourcesGiveUnwrittenResults := by
  intro s rd rs1 rs2
  constructor
  · intro h
    have total : ∀ f, totalOne f (s.source rs1) = .unwritten := fun f => by rw [h]; rfl
    have modular : ∀ f, modularOne f (s.source rs1) = .unwritten := fun f => by rw [h]; rfl
    exact ⟨next_completeFlag_of_unwritten s .ovf (by rw [h]; rfl),
      next_completeReg_of_unwritten s rd (total _), next_completeReg_of_unwritten s rd (total _),
      next_completeReg_of_unwritten s rd (modular _), next_completeReg_of_unwritten s rd (modular _),
      next_completeReg_of_unwritten s rd (modular _), next_completeReg_of_unwritten s rd (modular _),
      next_completeReg_of_unwritten s rd (modular _), next_completeReg_of_unwritten s rd (modular _)⟩
  · intro h
    have modular : ∀ f, modularTwo f (s.source rs1) (s.source rs2) = .unwritten :=
      fun f => modularTwo_of_unwritten f h
    have wide : ∀ f, totalTwo f (s.source rs1) (s.source rs2) = .unwritten := fun f => totalTwo_of_unwritten f h
    have test : ∀ f, testTwo f (s.source rs1) (s.source rs2) = none := fun f => testTwo_of_unwritten f h
    exact ⟨next_completeFlag_of_unwritten s .eq (test _),
      next_completeReg_of_unwritten s rd (modular _), next_completeReg_of_unwritten s rd (modular _),
      next_completeReg_of_unwritten s rd (modular _), next_completeReg_of_unwritten s rd (modular _),
      next_completeReg_of_unwritten s rd (modularBase_of_unwritten _ h),
      next_completeRegFlag_of_unwritten s rd .cry (wide _) (test _),
      next_completeRegFlag_of_unwritten s rd .brw (wide _) (test _)⟩

end Sys2Proof.Machine
end

section
/-! ## The constants (10_state.md R30 to R35) and the primality of the modulus

The modulus is prime by Lucas's test. A Pratt certificate gives the factors of `P - 1`, and below them those of each
factor less one that is too large for trial division. -/

namespace Sys2Proof.Primality

/-- A prime that divides a product of powers of primes is one of those primes. -/
theorem mem_of_prime_dvd_prod_pow {fs : List (Nat × Nat)} (hfs : ∀ f ∈ fs, f.1.Prime) {q : Nat} (hq : q.Prime)
    (hdvd : q ∣ (fs.map fun f => f.1 ^ f.2).prod) : ∃ f ∈ fs, f.1 = q := by
  obtain ⟨x, hx, hqx⟩ := (Prime.dvd_prod_iff hq.prime).1 hdvd
  obtain ⟨f, hf, rfl⟩ := List.mem_map.1 hx
  exact ⟨f, hf, ((Nat.prime_dvd_prime_iff_eq hq (hfs f hf)).1 (hq.dvd_of_dvd_pow hqx)).symm⟩

/-- Lucas's test with `p - 1` given by its prime factors and their exponents: `a` has order `p - 1` modulo `p`. -/
theorem prime_of_factors {p : Nat} (a : ZMod p) (fs : List (Nat × Nat)) (hfs : ∀ f ∈ fs, f.1.Prime)
    (hprod : (fs.map fun f => f.1 ^ f.2).prod = p - 1)
    (horder : a ^ (p - 1) = 1 ∧ ∀ f ∈ fs, a ^ ((p - 1) / f.1) ≠ 1) : p.Prime := by
  obtain ⟨hone, hne⟩ := horder
  refine lucas_primality p a hone fun q hq hdvd => ?_
  obtain ⟨f, hf, rfl⟩ := mem_of_prime_dvd_prod_pow hfs hq (hprod ▸ hdvd)
  exact hne f hf

theorem prime_405928799 : Nat.Prime 405928799 := by
  refine prime_of_factors 22 [(2, 1), (11, 1), (3691, 1), (4999, 1)] ?_ (by norm_num) ?_
  · norm_num
  · simp only [List.forall_mem_cons, Nat.reduceSub, Nat.reduceDiv]
    reduce_mod_char
    decide

theorem prime_12048837557 : Nat.Prime 12048837557 := by
  refine prime_of_factors 2 [(2, 2), (7, 2), (661, 1), (93001, 1)] ?_ (by norm_num) ?_
  · norm_num
  · simp only [List.forall_mem_cons, Nat.reduceSub, Nat.reduceDiv]
    reduce_mod_char
    decide

theorem prime_5156902474397 : Nat.Prime 5156902474397 := by
  refine prime_of_factors 2 [(2, 2), (107, 1), (12048837557, 1)] ?_ (by norm_num) ?_
  · simp only [List.forall_mem_cons, prime_12048837557]
    norm_num
  · simp only [List.forall_mem_cons, Nat.reduceSub, Nat.reduceDiv]
    reduce_mod_char
    decide

theorem prime_1670836401704629 : Nat.Prime 1670836401704629 := by
  refine prime_of_factors 2 [(2, 2), (3, 4), (5156902474397, 1)] ?_ (by norm_num) ?_
  · simp only [List.forall_mem_cons, prime_5156902474397]
    norm_num
  · simp only [List.forall_mem_cons, Nat.reduceSub, Nat.reduceDiv]
    reduce_mod_char
    decide

theorem prime_639533339 : Nat.Prime 639533339 := by
  refine prime_of_factors 2 [(2, 1), (229, 1), (853, 1), (1637, 1)] ?_ (by norm_num) ?_
  · norm_num
  · simp only [List.forall_mem_cons, Nat.reduceSub, Nat.reduceDiv]
    reduce_mod_char
    decide

theorem prime_65865678001877903 : Nat.Prime 65865678001877903 := by
  refine prime_of_factors 5 [(2, 1), (83, 1), (379, 1), (1637, 1), (639533339, 1)] ?_ (by norm_num) ?_
  · simp only [List.forall_mem_cons, prime_639533339]
    norm_num
  · simp only [List.forall_mem_cons, Nat.reduceSub, Nat.reduceDiv]
    reduce_mod_char
    decide

theorem prime_13818364434197438864469338081 : Nat.Prime 13818364434197438864469338081 := by
  refine prime_of_factors 3 [(2, 5), (5, 1), (823, 1), (1593227, 1), (65865678001877903, 1)] ?_ (by norm_num) ?_
  · simp only [List.forall_mem_cons, prime_65865678001877903]
    norm_num
  · simp only [List.forall_mem_cons, Nat.reduceSub, Nat.reduceDiv]
    reduce_mod_char
    decide

/-- The decimal number of R30 is prime. -/
theorem prime_bn254_scalar :
    Nat.Prime 21888242871839275222246405745257275088548364400416034343698204186575808495617 := by
  refine prime_of_factors 5
    [(2, 28), (3, 2), (13, 1), (29, 1), (983, 1), (11003, 1), (237073, 1), (405928799, 1), (1670836401704629, 1),
      (13818364434197438864469338081, 1)] ?_ (by norm_num) ?_
  · simp only [List.forall_mem_cons, prime_405928799, prime_1670836401704629, prime_13818364434197438864469338081]
    norm_num
  · simp only [List.forall_mem_cons, Nat.reduceSub, Nat.reduceDiv]
    reduce_mod_char
    decide

end Sys2Proof.Primality

namespace Sys2Proof.Machine

/-- The literal of `C.P` is the decimal number of R30. -/
theorem modulus_eq : modulus = 21888242871839275222246405745257275088548364400416034343698204186575808495617 := rfl

/-- Settles O7. -/
theorem modulusIsPrime : Obligations.ModulusIsPrime := by
  rw [Obligations.ModulusIsPrime, modulus_eq]
  exact Primality.prime_bn254_scalar

/-- Settles O6: each formula evaluated at the literal. -/
theorem constantsMeetTheirDefinitions : Obligations.ConstantsMeetTheirDefinitions :=
  ⟨modulus_eq, by decide +kernel, by decide +kernel, by decide +kernel, by decide +kernel, by decide +kernel, rfl, rfl⟩

end Sys2Proof.Machine
end

section
/-! ## Limbs, bytes and registers by their numbers (00_scope.md R13, 10_state.md R21, 20_memory.md R62, R66) -/

namespace Sys2Proof.Machine

/-- A limb as a digit of the element to the base `2^64`. -/
theorem limb_toNat (v : U256) (j : LimbIx) : (limb v j).toNat = v.toNat / 2 ^ (64 * limbIndex j) % 2 ^ 64 := by
  rw [limb, BitVec.extractLsb'_toNat, Nat.shiftRight_eq_div_pow]

/-- An element is the number whose base `2^64` digits are its limbs. -/
theorem toNat_eq_sum_limbs (v : U256) :
    v.toNat = (limb v .l0).toNat + (limb v .l1).toNat * 2 ^ 64 + (limb v .l2).toNat * 2 ^ 128
      + (limb v .l3).toNat * 2 ^ 192 := by
  simp only [limb_toNat, limbIndex]
  have hv := v.isLt
  omega

/-- A write of one limb exchanges one digit of the element. -/
theorem setLimb_toNat (v : U256) (j : LimbIx) (w : U64) :
    (setLimb v j w).toNat =
      v.toNat - (limb v j).toNat * 2 ^ (64 * limbIndex j) + w.toNat * 2 ^ (64 * limbIndex j) := by
  rw [toNat_eq_sum_limbs (setLimb v j w), toNat_eq_sum_limbs v]
  cases j <;> simp only [limb_setLimb, limbIndex, reduceCtorEq, if_true, if_false] <;> omega

/-- Byte `k` of limb `j` is byte `8j + k` of the element. -/
theorem byteOf_limb (v : U256) (j : LimbIx) {k : Nat} (hk : k < 8) :
    byteOf (limb v j) k = v.extractLsb' (8 * (8 * limbIndex j + k)) 8 := by
  apply BitVec.eq_of_getLsbD_eq
  intro b hb
  have hbit : 8 * (8 * limbIndex j + k) + b = 64 * limbIndex j + (8 * k + b) := by omega
  simp only [byteOf, BitVec.getLsbD_extractLsb', hb, decide_true, Bool.true_and, hbit]
  exact limb_getLsbD v j (8 * k + b) (by omega)

/-- Every number below 4 is the index of a limb. -/
theorem exists_limbIndex {n : Nat} (h : n < 4) : ∃ j, limbIndex j = n := by
  match n, h with
  | 0, _ => exact ⟨.l0, rfl⟩
  | 1, _ => exact ⟨.l1, rfl⟩
  | 2, _ => exact ⟨.l2, rfl⟩
  | 3, _ => exact ⟨.l3, rfl⟩

/-- Every number below 8 is the number of a register. -/
theorem exists_fReg_code {n : Nat} (h : n < 8) : ∃ i : FReg, i.code.toNat = n := by
  match n, h with
  | 0, _ => exact ⟨.f0, rfl⟩
  | 1, _ => exact ⟨.f1, rfl⟩
  | 2, _ => exact ⟨.f2, rfl⟩
  | 3, _ => exact ⟨.f3, rfl⟩
  | 4, _ => exact ⟨.f4, rfl⟩
  | 5, _ => exact ⟨.f5, rfl⟩
  | 6, _ => exact ⟨.f6, rfl⟩
  | 7, _ => exact ⟨.f7, rfl⟩

/-- The mapped offsets are the aligned ones below `0x020` and from `0x100` on (20_memory.md R64, R70). -/
theorem exists_windowOffset {off : Nat} (ha : off % 8 = 0) (hw : off + 8 ≤ windowSize)
    (hm : off < 0x020 ∨ 0x100 ≤ off) : ∃ r, windowOffset r = off := by
  have hsize : windowSize = 0x200 := rfl
  obtain hlow | hlimb := hm
  · obtain ⟨n, rfl⟩ : ∃ n, off = 8 * n := ⟨off / 8, by omega⟩
    have hn : n < 4 := by omega
    match n, hn with
    | 0, _ => exact ⟨.cmd, rfl⟩
    | 1, _ => exact ⟨.status, rfl⟩
    | 2, _ => exact ⟨.flags, rfl⟩
    | 3, _ => exact ⟨.ctrl, rfl⟩
  · obtain ⟨i, hi⟩ := exists_fReg_code (n := (off - 0x100) / 32) (by omega)
    obtain ⟨j, hj⟩ := exists_limbIndex (n := (off - 0x100) % 32 / 8) (by omega)
    exact ⟨.limb i j, by simp only [windowOffset, hi, hj]; omega⟩

/-- The offsets of `0x020` to `0x0ff` are not mapped (20_memory.md R70). -/
theorem windowReg_eq_none {off : Nat} (hlo : 0x020 ≤ off) (hhi : off < 0x100) : windowReg off = none := by
  rw [windowReg, if_neg (by omega), if_neg (by omega), if_neg (by omega), if_neg (by omega), if_pos hhi]

/-- A limb of a written register is written. -/
theorem Cell.limb?_of_value? {c : Cell} {v : U256} (h : c.value? = some v) (j : LimbIx) :
    c.limb? j = some (limb v j) := by
  rw [Cell.value?] at h
  split at h
  next hall =>
    cases h
    rw [Cell.limb?, if_pos ((LimbMarks.all_iff c.marks).1 hall j)]
  next => cases h

end Sys2Proof.Machine
end

section
/-! ## Registers, the phase rule and limb accesses (20_memory.md R66, R67, R69, R72, R76) -/

namespace Sys2Proof.Machine

/-! ### What changes a register -/

/-- Replacing a register changes no other. -/
theorem RegFile.eq_of_get_put_ne {r : RegFile} {i j : FReg} {c : Cell} (h : (r.put i c).get j ≠ r.get j) : j = i := by
  by_contra hne
  exact h (by rw [RegFile.get_put, if_neg hne])

/-- A command whose run changed a register names it as its destination and has completed. -/
theorem ExecKind.completed_of_cell_ne {i : Instr} {s t : State} (k : ExecKind i s t) {r : FReg}
    (hr : t.cell r ≠ s.cell r) : t.busy = false ∧ destination i = some r := by
  have hdest : destination i = some r := by
    obtain h | ⟨rd, c, hd, _, h⟩ := k.regs
    · exact absurd (congrArg (RegFile.get · r) h) hr
    · rw [State.cell, h] at hr
      rw [RegFile.eq_of_get_put_ne hr, hd]
  refine ⟨?_, hdest⟩
  cases k with
  | completed regs flags n hi hregs hflags h => exact h ▸ rfl
  | accepted rd hi w0 w1 w2 w3 rest he v h => exact h ▸ rfl
  | waiting rd hi h => exact absurd (h ▸ rfl) hr
  | rejected rd hi w0 w1 w2 w3 rest he h => exact absurd (h ▸ rfl) hr

/-- Settles O13, by the case analysis of `step_effect`. -/
theorem registersChangeOnlyByCommandsAndLimbWrites : Obligations.RegistersChangeOnlyByCommandsAndLimbWrites := by
  intro s t r h hr
  obtain ⟨hn, _⟩ | ⟨_, k⟩ := step_effect h
  · exact .inl hn
  · cases k with
    | quiet held es replies n hheld hes h => exact absurd (h ▸ rfl) hr
    | violated c replies n hres hf hv h => exact absurd (h ▸ rfl) hr
    | accepted w replies hw h => exact absurd (h ▸ rfl) hr
    | limb i j w rest replies hres hb ha h =>
      subst h
      obtain rfl : r = i := RegFile.eq_of_get_put_ne hr
      exact .inr (.inr ⟨hb, j, w, rest, ha⟩)
    | command i turn hb hres hl h =>
      obtain ⟨hidle, hdest⟩ := (exec_next h).completed_of_cell_ne (s := s.afterTurn) hr
      exact .inr (.inl ⟨turn, hb, hidle, i, hl, hdest⟩)

/-! ### Accesses that do nothing but answer -/

/-- Settles O26. -/
theorem readOnlyIgnoresWriteOnlyReadsZero : Obligations.ReadOnlyIgnoresWriteOnlyReadsZero := by
  intro s w rest
  exact ⟨step_of_write (r := .status), step_of_write (r := .flags), step_of_read (r := .cmd),
    step_of_read (r := .ctrl)⟩

/-! ### The phase rule -/

/-- Recording the answer and recording a fault do not disturb each other. -/
theorem State.record_raiseFault (s : State) (c : Cause) (p : Reply) :
    (s.raiseFault c).record p = (s.record p).raiseFault c := by
  simp only [State.raiseFault, State.record_fault, apply_ite (State.record · p)]
  rfl

/-- Counting a draw and recording a fault do not disturb each other. -/
theorem State.countDraw_raiseFault (s : State) (c : Cause) :
    (s.raiseFault c).countDraw = s.countDraw.raiseFault c := by
  simp only [State.raiseFault, State.countDraw_fault, apply_ite State.countDraw]
  rfl

/-- In phase BUSY a write to `CMD` raises the fault of R72, if none is recorded (30_encoding.md R99). -/
theorem State.acceptCommand_of_busy {s : State} (hb : s.busy = true) (w : U64) :
    s.acceptCommand w = s.raiseFault .busyViolation := by
  rw [State.acceptCommand, if_pos hb]
  exact ite_eq_right_iff.2 fun hf => (if_pos hf).symm

/-- In phase BUSY a write of a limb is dropped and raises the fault of R72. -/
theorem State.writeLimb_of_busy {s : State} (hb : s.busy = true) (i : FReg) (j : LimbIx) (w : U64) :
    s.writeLimb i j w = s.raiseFault .busyViolation := if_pos hb

/-- In phase IDLE a write of a limb replaces that limb of that register (20_memory.md R66). -/
theorem State.writeLimb_of_idle {s : State} (hb : s.busy = false) (i : FReg) (j : LimbIx) (w : U64) :
    s.writeLimb i j w = s.putCell i ((s.cell i).putLimb j w) := by
  rw [State.writeLimb, hb]
  rfl

/-- In phase BUSY a read of a limb returns a free value (20_memory.md R72). -/
theorem readData_limb_of_busy {s : State} (hb : s.busy = true) (i : FReg) (j : LimbIx) :
    readData s (.limb i j) = Config.drawU64 s.draws := by
  simp only [readData, windowWord, hb, if_true]

/-- A write to `CTRL` is ignored or leads to the reset state (10_state.md R42). -/
theorem step_of_ctrlWrite {s : State} {w : U64} {rest : List Event}
    (h : s.hostNext (.write (s.base + 0x018) 8 w) rest) :
    ∃ t, step s = .next t ∧ (t = s.answering .done rest ∨ t.IsReset) := by
  obtain ⟨hset, hclear⟩ := (ctrlWriteIsTheSoftReset s w rest).1 h
  obtain heven | hodd := Nat.mod_two_eq_zero_or_one w.toNat
  · exact ⟨_, hclear heven, .inl rfl⟩
  · obtain ⟨t, hstep, hreset, _⟩ := hset hodd
    exact ⟨t, hstep, .inr hreset⟩

/-- Settles O21: what `violated` does to a state is `State.raiseFault .busyViolation`. -/
theorem busyPhaseRule : Obligations.BusyPhaseRule := by
  intro s i j w rest
  refine ⟨fun hbusy => ?_, fun off hoff h => ?_, fun off hoff h => ?_, step_of_ctrlWrite⟩
  · have hb : ({ s with agenda := rest } : State).busy = true := hbusy
    refine ⟨fun h => ?_, fun h => ?_, fun h => ?_⟩
    · have hstep := step_of_write (r := .cmd) h
      rw [State.busWrite, State.acceptCommand_of_busy hb, State.record_raiseFault] at hstep
      exact hstep
    · have hstep := step_of_write (r := .limb i j) h
      rw [State.busWrite, State.writeLimb_of_busy hb, State.record_raiseFault] at hstep
      exact hstep
    · have hstep := step_of_read (r := .limb i j) h
      rw [State.afterRead_limb_of_busy hb, readData_limb_of_busy hb, State.countDraw_raiseFault,
        State.record_raiseFault] at hstep
      exact hstep
  · simp only [List.mem_cons, List.not_mem_nil, or_false] at hoff
    obtain rfl | rfl | rfl | rfl := hoff
    · exact ⟨_, step_of_read (r := .cmd) h⟩
    · exact ⟨_, step_of_read (r := .status) h⟩
    · exact ⟨_, step_of_read (r := .flags) h⟩
    · exact ⟨_, step_of_read (r := .ctrl) h⟩
  · simp only [List.mem_cons, List.not_mem_nil, or_false] at hoff
    obtain rfl | rfl := hoff
    · exact step_of_write (r := .status) h
    · exact step_of_write (r := .flags) h

/-! ### Limb accesses in phase IDLE -/

/-- In phase IDLE a limb that carries a value is read as that value, and the read changes nothing. -/
theorem read_limb_of_some {s : State} (hb : s.busy = false) {i : FReg} {j : LimbIx} {w : U64}
    (hl : (s.cell i).limb? j = some w) : readData s (.limb i j) = w ∧ s.afterRead (.limb i j) = s := by
  simp [readData, State.afterRead, State.readFault, windowWord, hb, hl]

/-- In phase IDLE a limb that carries no value is read as a free value, and the read counts one draw. -/
theorem read_limb_of_none {s : State} (hb : s.busy = false) {i : FReg} {j : LimbIx}
    (hl : (s.cell i).limb? j = none) :
    readData s (.limb i j) = Config.drawU64 s.draws ∧ s.afterRead (.limb i j) = s.countDraw := by
  simp [readData, State.afterRead, State.readFault, windowWord, hb, hl]

/-- Settles O22: the cell the write leaves is `Cell.putLimb`, whose value `setLimb_toNat` gives. -/
theorem idleLimbAccess : Obligations.IdleLimbAccess := by
  intro s i j v rest hidle
  have hb : ({ s with agenda := rest } : State).busy = false := hidle
  refine ⟨fun h => ⟨(s.cell i).putLimb j v, ?_, setLimb_toNat _ j v, fun k => LimbMarks.get_mark _ j k⟩,
    fun h => ?_⟩
  · have hstep := step_of_write (r := .limb i j) h
    rw [State.busWrite, State.writeLimb_of_idle hb] at hstep
    exact hstep
  · have hstep := step_of_read (r := .limb i j) h
    refine ⟨fun hm => ⟨limb (s.cell i).value j, ?_, limb_toNat _ j⟩, fun hm => ?_⟩
    · obtain ⟨hdata, hafter⟩ := read_limb_of_some hb (i := i) (j := j) (if_pos hm)
      rw [hdata, hafter] at hstep
      exact hstep
    · obtain ⟨hdata, hafter⟩ := read_limb_of_none hb (i := i) (j := j) (Cell.limb?_eq_none hm)
      rw [hdata, hafter] at hstep
      exact hstep

end Sys2Proof.Machine
end

section
/-! ## The bytes of the window, its bus errors and its base (20_memory.md R60, R61, R62, R65, R70) -/

namespace Sys2Proof.Machine

/-! ### The byte order -/

/-- Byte `k` of a window register whose word is definite. -/
theorem windowByte_of_windowWord {s : State} {r : WindowReg} {w : U64} (hw : windowWord s r = some w) {k : Nat}
    (hk : k < 8) : windowByte s (windowOffset r + k) = some (w.extractLsb' (8 * k) 8) := by
  rw [windowByte_windowOffset s r hk, hw]
  rfl

/-- In phase IDLE the word of a limb is what the limb carries. -/
theorem windowWord_limb_of_idle {s : State} (hb : s.busy = false) (i : FReg) (j : LimbIx) :
    windowWord s (.limb i j) = (s.cell i).limb? j := by
  rw [windowWord, hb]
  rfl

/-- Settles O24: byte `m` of a register is byte `m % 8` of its limb `m / 8`. -/
theorem windowIsLittleEndian : Obligations.WindowIsLittleEndian := by
  intro s
  refine ⟨fun i v m hb hv hm => ?_, fun i j w k hb hl hk => ?_, fun k hk => ?_⟩
  · obtain ⟨j, hj⟩ := exists_limbIndex (n := m / 8) (by omega)
    have hk : m % 8 < 8 := by omega
    have hbyte : 8 * limbIndex j + m % 8 = m := by omega
    have hoff : 0x100 + 32 * i.code.toNat + m = windowOffset (.limb i j) + m % 8 := by
      rw [windowOffset, Nat.add_assoc _ (8 * limbIndex j), hbyte]
    rw [hoff, windowByte_windowOffset s _ hk, windowWord_limb_of_idle hb, Cell.limb?_of_value? hv, Option.map_some,
      byteOf_limb v j hk, hbyte]
  · exact windowByte_of_windowWord (r := .limb i j) ((windowWord_limb_of_idle hb i j).trans hl) hk
  · have hzero : (0#64).extractLsb' (8 * k) 8 = 0#8 := BitVec.extractLsb'_zero
    exact ⟨windowByte_of_windowWord (r := .status) rfl hk, windowByte_of_windowWord (r := .flags) rfl hk,
      hzero ▸ windowByte_of_windowWord (r := .cmd) rfl hk, hzero ▸ windowByte_of_windowWord (r := .ctrl) rfl hk⟩

/-! ### Accesses by their offset -/

/-- An access at or above `BASE`, by its offset: the tests of R61, R65 and R70 in their order. -/
theorem busAccess_of_addr {s : State} {a : HostAccess} {off : Nat} (h : a.addr = s.base + off) :
    s.busAccess a =
      if windowSize < off + a.size then .outside
      else if a.size ≠ 8 then .busError .size
      else if off % 8 ≠ 0 then .busError .alignment
      else (windowReg off).elim (.busError .unmapped) (s.perform a) := by
  have hout : (s.base + off < s.base ∨ s.base + windowSize < s.base + off + a.size) ↔
      windowSize < off + a.size := by omega
  have hoff : s.base + off - s.base = off := by omega
  simp only [State.busAccess, h, hout, hoff]
  cases windowReg off <;> rfl

/-- An access of 8 bytes at the offset of a window register reaches that register. -/
theorem busAccess_windowOffset {s : State} {a : HostAccess} {r : WindowReg} (ha : a.addr = s.base + windowOffset r)
    (hs : a.size = 8) : s.busAccess a = s.perform a r := by
  obtain ⟨halign, hin⟩ := windowOffset_bounds r
  rw [busAccess_of_addr ha, hs, if_neg (by omega), if_neg (by omega), if_neg (by omega), windowReg_windowOffset]
  rfl

/-- A write leaves the agenda and the record of answers. -/
theorem State.busWrite_port (s : State) (r : WindowReg) (w : U64) :
    (s.busWrite r w).agenda = s.agenda ∧ (s.busWrite r w).replies = s.replies := by
  cases r with
  | cmd =>
    rw [State.busWrite]
    obtain ⟨_, he⟩ | ⟨_, _, he⟩ | ⟨_, _, c, _, he⟩ | ⟨_, _, i, _, he⟩ := s.acceptCommand_cases w <;> simp [he]
  | status => exact ⟨rfl, rfl⟩
  | flags => exact ⟨rfl, rfl⟩
  | ctrl =>
    rw [State.busWrite, State.writeCtrl]
    split <;> simp
  | limb i j =>
    rw [State.busWrite, State.writeLimb]
    split <;> simp

/-- A read leaves the agenda and the record of answers. -/
theorem State.afterRead_port (s : State) (r : WindowReg) :
    (s.afterRead r).agenda = s.agenda ∧ (s.afterRead r).replies = s.replies := by
  obtain he | he | he := s.afterRead_cases r <;> simp [he]

/-- An access at a mapped register is answered, and nothing but the answer is done to the port. -/
theorem State.perform_answered (s : State) (a : HostAccess) (r : WindowReg) :
    ∃ p u, s.perform a r = .answered p u ∧ u.agenda = s.agenda ∧ u.replies = s.replies := by
  cases a with
  | read ad n => exact ⟨_, _, rfl, s.afterRead_port r⟩
  | write ad n w => exact ⟨_, _, rfl, s.busWrite_port r w⟩

/-! ### The refusals -/

/-- An access with a `BusError`, out of reset, is refused by its kind (20_memory.md R71). -/
theorem hostStep_of_busError {s : State} {a : HostAccess} {k : BusErrorKind} (hr : s.resetHeld = false)
    (hb : s.busAccess a = .busError k) : hostStep a s = .refused (.busError k) := by
  simp only [hostStep, hr, hb, Bool.false_eq_true, if_false]

/-- An access that is not the FAU's, out of reset, is refused by name (20_memory.md R60, R61). -/
theorem hostStep_of_outside {s : State} {a : HostAccess} (hr : s.resetHeld = false)
    (hb : s.busAccess a = .outside) : hostStep a s = .refused .outsideWindow := by
  simp only [hostStep, hr, hb, Bool.false_eq_true, if_false]

/-- Settles O25, by the offset of the access and the tests made of it. -/
theorem busErrorsAreRefusedInOrder : Obligations.BusErrorsAreRefusedInOrder := by
  intro s a rest h
  have hsize : windowSize = 0x200 := rfl
  have hstep := step_of_hostNext h
  refine ⟨fun hout => hstep.trans (hostStep_of_outside h.1 (if_pos hout)), fun hlo hhi => ?_⟩
  obtain ⟨off, hoff⟩ := Nat.exists_eq_add_of_le hlo
  have hsub : a.addr - s.base = off := by omega
  have hin : ¬ windowSize < off + a.size := by omega
  have hbus := busAccess_of_addr (s := { s with agenda := rest }) hoff
  rw [if_neg hin] at hbus
  rw [hsub]
  refine ⟨fun hs => ?_, fun hs ha => ?_, fun hs ha hl hh => ?_, fun hs ha hm => ?_⟩
  · exact hstep.trans <| hostStep_of_busError h.1 (hbus.trans (if_pos hs))
  · rw [if_neg (not_not.2 hs), if_pos ha] at hbus
    exact hstep.trans (hostStep_of_busError h.1 hbus)
  · rw [if_neg (not_not.2 hs), if_neg (not_not.2 ha), windowReg_eq_none hl hh] at hbus
    exact hstep.trans (hostStep_of_busError h.1 hbus)
  · obtain ⟨r, rfl⟩ := exists_windowOffset ha (by omega) hm
    obtain ⟨p, u, hp, hagenda, hreplies⟩ := State.perform_answered { s with agenda := rest } a r
    have hans := (busAccess_windowOffset (s := { s with agenda := rest }) hoff hs).trans hp
    refine ⟨u.record p, p, hstep.trans (hostStep_of_answered h.1 hans), ?_, hagenda⟩
    rw [State.record_replies, hreplies]

/-! ### The base -/

/-- The same machine at another `BASE`. -/
def State.atBlock (s : State) (b : Nat) : State := { s with baseBlock := b }

/-- An access's result with the machine at another `BASE`. -/
def AccessResult.atBlock (b : Nat) : AccessResult → AccessResult
  | .answered p t => .answered p (t.atBlock b)
  | .busError k => .busError k
  | .outside => .outside

/-! `BASE` passes through every operation of the port untouched: each commutes with `atBlock`. -/

theorem State.atBlock_raiseFault (s : State) (b : Nat) (c : Cause) :
    (s.atBlock b).raiseFault c = (s.raiseFault c).atBlock b := by
  rw [State.raiseFault, State.raiseFault, apply_ite (State.atBlock · b)]
  rfl

theorem windowWord_atBlock (s : State) (b : Nat) (r : WindowReg) : windowWord (s.atBlock b) r = windowWord s r := by
  cases r <;> rfl

theorem readData_atBlock (s : State) (b : Nat) (r : WindowReg) : readData (s.atBlock b) r = readData s r := by
  rw [readData, readData, windowWord_atBlock]
  rfl

theorem State.atBlock_readFault (s : State) (b : Nat) (r : WindowReg) :
    (s.atBlock b).readFault r = (s.readFault r).atBlock b := by
  cases r with
  | limb i j =>
    rw [State.readFault, State.readFault, State.atBlock_raiseFault, apply_ite (State.atBlock · b)]
    rfl
  | _ => rfl

theorem State.atBlock_afterRead (s : State) (b : Nat) (r : WindowReg) :
    (s.atBlock b).afterRead r = (s.afterRead r).atBlock b := by
  rw [State.afterRead, State.afterRead, windowWord_atBlock, State.atBlock_readFault]
  cases windowWord s r <;> rfl

theorem State.atBlock_acceptCommand (s : State) (b : Nat) (w : U64) :
    (s.atBlock b).acceptCommand w = (s.acceptCommand w).atBlock b := by
  simp only [State.acceptCommand, State.atBlock_raiseFault, apply_ite (State.atBlock · b)]
  cases decode w <;> rfl

theorem State.atBlock_busWrite (s : State) (b : Nat) (r : WindowReg) (w : U64) :
    (s.atBlock b).busWrite r w = (s.busWrite r w).atBlock b := by
  cases r with
  | cmd => exact s.atBlock_acceptCommand b w
  | status => rfl
  | flags => rfl
  | ctrl =>
    rw [State.busWrite, State.busWrite, State.writeCtrl, State.writeCtrl, apply_ite (State.atBlock · b)]
    rfl
  | limb i j =>
    rw [State.busWrite, State.busWrite, State.writeLimb, State.writeLimb, State.atBlock_raiseFault,
      apply_ite (State.atBlock · b)]
    rfl

/-- A read of one register is performed alike, wherever the window stands. -/
theorem State.atBlock_perform_read (s : State) (b ad ad' n : Nat) (r : WindowReg) :
    (s.atBlock b).perform (.read ad' n) r = (s.perform (.read ad n) r).atBlock b := by
  rw [State.perform, State.perform, readData_atBlock, State.atBlock_afterRead]
  rfl

/-- A write of one value to one register is performed alike, wherever the window stands. -/
theorem State.atBlock_perform_write (s : State) (b ad ad' n : Nat) (w : U64) (r : WindowReg) :
    (s.atBlock b).perform (.write ad' n w) r = (s.perform (.write ad n w) r).atBlock b := by
  rw [State.perform, State.perform, State.atBlock_busWrite]
  rfl

/-- Two accesses of one size at one offset that are performed alike are answered alike. -/
theorem State.atBlock_busAccess {s : State} {b off : Nat} {a a' : HostAccess} (ha : a.addr = s.base + off)
    (ha' : a'.addr = (s.atBlock b).base + off) (hs : a'.size = a.size)
    (hp : ∀ r, (s.atBlock b).perform a' r = (s.perform a r).atBlock b) :
    (s.atBlock b).busAccess a' = (s.busAccess a).atBlock b := by
  have hmap : (windowReg off).elim (.busError .unmapped) ((s.atBlock b).perform a') =
      ((windowReg off).elim (.busError .unmapped) (s.perform a)).atBlock b := by
    cases windowReg off with
    | none => rfl
    | some r => exact hp r
  rw [busAccess_of_addr ha, busAccess_of_addr ha', hs, hmap]
  simp only [apply_ite (AccessResult.atBlock b)]
  rfl

/-- Settles O30: `move` of the statement is `AccessResult.atBlock`. -/
theorem baseDoesNotMatter : Obligations.BaseDoesNotMatter := by
  intro s b off n w
  exact ⟨State.atBlock_busAccess rfl rfl rfl fun r => s.atBlock_perform_read b _ _ n r,
    State.atBlock_busAccess rfl rfl rfl fun r => s.atBlock_perform_write b _ _ n w r⟩

end Sys2Proof.Machine
end

section
/-! ## The fields of a command word (30_encoding.md R91 to R94, R97, R98)

A word is its five fields, and the mask of a format is one mask for each field; so the mask test of R101 is one test
for each field. -/

namespace Sys2Proof

/-! ### Opcodes and register numbers -/

theorem Opcode.ofCode?_code (op : Opcode) : Opcode.ofCode? op.code = some op := by
  cases op <;> rfl

theorem Opcode.code_of_ofCode? {b : BitVec 8} {op : Opcode} (h : Opcode.ofCode? b = some op) : op.code = b :=
  beq_iff_eq.1 (List.find?_some (p := fun op : Opcode => op.code == b) h)

theorem Opcode.ofCode?_eq_none {b : BitVec 8} (h : ∀ op : Opcode, op.code ≠ b) : Opcode.ofCode? b = none :=
  List.find?_eq_none.2 fun op _ hb => h op (beq_iff_eq.1 hb)

/-- Where the 21 `op` values of the map lie. -/
theorem Opcode.code_ranges (op : Opcode) :
    op.code.toNat ≤ 0x02 ∨ (0x10 ≤ op.code.toNat ∧ op.code.toNat ≤ 0x15) ∨
    (0x18 ≤ op.code.toNat ∧ op.code.toNat ≤ 0x1a) ∨ (0x20 ≤ op.code.toNat ∧ op.code.toNat ≤ 0x21) ∨
    (0x30 ≤ op.code.toNat ∧ op.code.toNat ≤ 0x33) ∨ (0x40 ≤ op.code.toNat ∧ op.code.toNat ≤ 0x41) ∨
    op.code.toNat = 0x50 := by
  cases op <;> decide

/-- `FLDC` is the one command of its format. -/
theorem Opcode.format_eq_dc_iff (op : Opcode) : op.format = .dc ↔ op = .fldc := by
  cases op <;> decide

/-- The number of a register names it. -/
theorem FReg.ofBits_code (r : FReg) : FReg.ofBits (r.code.setWidth 3) = r := by
  cases r <;> rfl

/-- A register field with bit 3 clear is the number of the register it names. -/
theorem FReg.code_ofBits : ∀ b : BitVec 4, b &&& 8#4 = 0#4 → (FReg.ofBits (b.setWidth 3)).code = b := by
  decide

/-! ### The fields of a word -/

/-- Field `zero`, bits 31:20 (R91). -/
def zeroBits (w : CmdWord) : BitVec 12 := w.extractLsb' 20 12

/-- The four bits 11:8 of field `rd` (R91). -/
def rdBits (w : CmdWord) : BitVec 4 := w.extractLsb' 8 4

/-- The four bits 15:12 of field `rs1`, or of the selector of `FLDC` (R91, R94). -/
def rs1Bits (w : CmdWord) : BitVec 4 := w.extractLsb' 12 4

/-- The four bits 19:16 of field `rs2` (R91). -/
def rs2Bits (w : CmdWord) : BitVec 4 := w.extractLsb' 16 4

theorem opField_toNat (w : CmdWord) : (opField w).toNat = w.toNat % 256 := by
  simp only [opField, BitVec.extractLsb'_toNat, Nat.shiftRight_zero, Nat.reducePow]

theorem zeroBits_toNat (w : CmdWord) : (zeroBits w).toNat = w.toNat / 2 ^ 20 := by
  have hw := w.isLt
  simp only [zeroBits, BitVec.extractLsb'_toNat, Nat.shiftRight_eq_div_pow]
  omega

theorem rdBits_toNat (w : CmdWord) : (rdBits w).toNat = w.toNat / 2 ^ 8 % 16 := by
  simp only [rdBits, BitVec.extractLsb'_toNat, Nat.shiftRight_eq_div_pow, Nat.reducePow]

theorem rs1Bits_toNat (w : CmdWord) : (rs1Bits w).toNat = w.toNat / 2 ^ 12 % 16 := by
  simp only [rs1Bits, BitVec.extractLsb'_toNat, Nat.shiftRight_eq_div_pow, Nat.reducePow]

theorem rs2Bits_toNat (w : CmdWord) : (rs2Bits w).toNat = w.toNat / 2 ^ 16 % 16 := by
  simp only [rs2Bits, BitVec.extractLsb'_toNat, Nat.shiftRight_eq_div_pow, Nat.reducePow]

/-- Two words with the same fields are the same. -/
theorem word_eq_of_fields {x y : CmdWord} (hop : opField x = opField y) (hrd : rdBits x = rdBits y)
    (hrs1 : rs1Bits x = rs1Bits y) (hrs2 : rs2Bits x = rs2Bits y) (hzero : zeroBits x = zeroBits y) : x = y := by
  simp only [BitVec.toNat_eq, opField_toNat, rdBits_toNat, rs1Bits_toNat, rs2Bits_toNat, zeroBits_toNat] at *
  omega

/-- The low three bits of a field of four. -/
theorem setWidth_extractLsb'_four (w : CmdWord) (k : Nat) :
    (w.extractLsb' k 4).setWidth 3 = w.extractLsb' k 3 := by
  apply BitVec.eq_of_toNat_eq
  simp only [BitVec.toNat_setWidth, BitVec.extractLsb'_toNat]
  omega

theorem rdField_eq (w : CmdWord) : rdField w = FReg.ofBits ((rdBits w).setWidth 3) := by
  rw [rdField, rdBits, setWidth_extractLsb'_four]

theorem rs1Field_eq (w : CmdWord) : rs1Field w = FReg.ofBits ((rs1Bits w).setWidth 3) := by
  rw [rs1Field, rs1Bits, setWidth_extractLsb'_four]

theorem rs2Field_eq (w : CmdWord) : rs2Field w = FReg.ofBits ((rs2Bits w).setWidth 3) := by
  rw [rs2Field, rs2Bits, setWidth_extractLsb'_four]

/-! ### The fields of an assembled word -/

theorem assemble_toNat (op : Opcode) (rd rs1 rs2 : BitVec 4) :
    (assemble op rd rs1 rs2).toNat =
      op.code.toNat + rd.toNat * 2 ^ 8 + rs1.toNat * 2 ^ 12 + rs2.toNat * 2 ^ 16 := by
  have hop := op.code.isLt
  have hrd := rd.isLt
  have hrs1 := rs1.isLt
  have hrs2 := rs2.isLt
  simp only [assemble, BitVec.toNat_add, BitVec.toNat_shiftLeft, BitVec.toNat_setWidth, Nat.shiftLeft_eq]
  omega

section
variable (op : Opcode) (rd rs1 rs2 : BitVec 4)

@[simp] theorem opField_assemble : opField (assemble op rd rs1 rs2) = op.code := by
  apply BitVec.eq_of_toNat_eq
  rw [opField_toNat, assemble_toNat]
  omega

@[simp] theorem rdBits_assemble : rdBits (assemble op rd rs1 rs2) = rd := by
  apply BitVec.eq_of_toNat_eq
  rw [rdBits_toNat, assemble_toNat]
  omega

@[simp] theorem rs1Bits_assemble : rs1Bits (assemble op rd rs1 rs2) = rs1 := by
  apply BitVec.eq_of_toNat_eq
  rw [rs1Bits_toNat, assemble_toNat]
  omega

@[simp] theorem rs2Bits_assemble : rs2Bits (assemble op rd rs1 rs2) = rs2 := by
  apply BitVec.eq_of_toNat_eq
  rw [rs2Bits_toNat, assemble_toNat]
  omega

@[simp] theorem zeroBits_assemble : zeroBits (assemble op rd rs1 rs2) = 0#12 := by
  apply BitVec.eq_of_toNat_eq
  rw [zeroBits_toNat, assemble_toNat, BitVec.toNat_ofNat]
  omega

@[simp] theorem selectorField_assemble : selectorField (assemble op rd rs1 rs2) = rs1 :=
  rs1Bits_assemble op rd rs1 rs2

end

@[simp] theorem rdField_assemble (op : Opcode) (r : FReg) (rs1 rs2 : BitVec 4) :
    rdField (assemble op r.code rs1 rs2) = r := by
  rw [rdField_eq, rdBits_assemble, FReg.ofBits_code]

@[simp] theorem rs1Field_assemble (op : Opcode) (r : FReg) (rd rs2 : BitVec 4) :
    rs1Field (assemble op rd r.code rs2) = r := by
  rw [rs1Field_eq, rs1Bits_assemble, FReg.ofBits_code]

@[simp] theorem rs2Field_assemble (op : Opcode) (r : FReg) (rd rs1 : BitVec 4) :
    rs2Field (assemble op rd rs1 r.code) = r := by
  rw [rs2Field_eq, rs2Bits_assemble, FReg.ofBits_code]

/-! ### The mask of a format, field by field -/

/-- The mask on field `rd`: bit 3 where the format uses it as a register, else all four bits (R93). -/
def Format.rdMask : Format → BitVec 4
  | .d | .ds | .dc | .dss => 8#4
  | .z | .s | .ss => 15#4

/-- The mask on field `rs1` (R93); the selectors of `FLDC` with bit 3 set are among the reserved ones. -/
def Format.rs1Mask : Format → BitVec 4
  | .s | .ss | .ds | .dc | .dss => 8#4
  | .z | .d => 15#4

/-- The mask on field `rs2` (R93). -/
def Format.rs2Mask : Format → BitVec 4
  | .ss | .dss => 8#4
  | .z | .d | .s | .ds | .dc => 15#4

theorem Format.mask_fields (f : Format) :
    opField f.mask = 0xff#8 ∧ rdBits f.mask = f.rdMask ∧ rs1Bits f.mask = f.rs1Mask ∧
    rs2Bits f.mask = f.rs2Mask ∧ zeroBits f.mask = 0xfff#12 := by
  cases f <;> decide

theorem Opcode.matchWord_fields (op : Opcode) :
    opField op.matchWord = op.code ∧ rdBits op.matchWord = 0#4 ∧ rs1Bits op.matchWord = 0#4 ∧
    rs2Bits op.matchWord = 0#4 ∧ zeroBits op.matchWord = 0#12 := by
  cases op <;> decide

/-- The mask test of R101 is one test for each field. -/
theorem mask_eq_matchWord_iff (w : CmdWord) (op : Opcode) :
    w &&& op.format.mask = op.matchWord ↔
      opField w = op.code ∧ rdBits w &&& op.format.rdMask = 0#4 ∧ rs1Bits w &&& op.format.rs1Mask = 0#4 ∧
      rs2Bits w &&& op.format.rs2Mask = 0#4 ∧ zeroBits w = 0#12 := by
  obtain ⟨mop, mrd, mrs1, mrs2, mzero⟩ := op.format.mask_fields
  obtain ⟨nop, nrd, nrs1, nrs2, nzero⟩ := op.matchWord_fields
  have hop : opField (w &&& op.format.mask) = opField w := by
    rw [opField, BitVec.extractLsb'_and, ← opField, ← opField, mop]
    exact BitVec.and_allOnes
  have hzero : zeroBits (w &&& op.format.mask) = zeroBits w := by
    rw [zeroBits, BitVec.extractLsb'_and, ← zeroBits, ← zeroBits, mzero]
    exact BitVec.and_allOnes
  have hrd : rdBits (w &&& op.format.mask) = rdBits w &&& op.format.rdMask := mrd ▸ BitVec.extractLsb'_and
  have hrs1 : rs1Bits (w &&& op.format.mask) = rs1Bits w &&& op.format.rs1Mask := mrs1 ▸ BitVec.extractLsb'_and
  have hrs2 : rs2Bits (w &&& op.format.mask) = rs2Bits w &&& op.format.rs2Mask := mrs2 ▸ BitVec.extractLsb'_and
  rw [← hop, ← hrd, ← hrs1, ← hrs2, ← hzero]
  constructor
  · intro h
    rw [h]
    exact ⟨nop, nrd, nrs1, nrs2, nzero⟩
  · rintro ⟨h1, h2, h3, h4, h5⟩
    exact word_eq_of_fields (h1.trans nop.symm) (h2.trans nrd.symm) (h3.trans nrs1.symm) (h4.trans nrs2.symm)
      (h5.trans nzero.symm)

end Sys2Proof
end

section
/-! ## The decoder and the encoder (30_encoding.md R98, R101 to R104) -/

namespace Sys2Proof

/-! ### The tests of R101 -/

/-- A value with a bit of 63:32 set (R102). -/
theorem decode_of_high {w : U64} (h : 2 ^ 32 ≤ w.toNat) : decode w = .illegal .cmdHigh := by
  have hne : w.extractLsb' 32 32 ≠ 0#32 := by
    intro h0
    have h0' := congrArg BitVec.toNat h0
    have hw := w.isLt
    simp only [BitVec.extractLsb'_toNat, Nat.shiftRight_eq_div_pow, BitVec.toNat_ofNat] at h0'
    omega
  rw [decode, if_pos hne]

/-- A value with no bit of 63:32 set (R102). -/
theorem decode_of_low {w : U64} (h : w.toNat < 2 ^ 32) : decode w = decodeWord (w.setWidth 32) := by
  have hzero : w.extractLsb' 32 32 = 0#32 := by
    apply BitVec.eq_of_toNat_eq
    simp only [BitVec.extractLsb'_toNat, Nat.shiftRight_eq_div_pow, BitVec.toNat_ofNat]
    omega
  rw [decode, if_neg (not_not.2 hzero)]

/-- The low word of a value with no bit of 63:32 set is the value. -/
theorem toNat_lowWord {w : U64} (h : w.toNat < 2 ^ 32) : (w.setWidth 32).toNat = w.toNat := by
  rw [BitVec.toNat_setWidth, Nat.mod_eq_of_lt h]

/-- A word extended by zeros is decoded as the word (R98). -/
theorem decode_setWidth (x : CmdWord) : decode (x.setWidth 64) = decodeWord x := by
  have hx := x.isLt
  have hnat : (x.setWidth 64).toNat = x.toNat := by
    rw [BitVec.toNat_setWidth]
    omega
  have hback : (x.setWidth 64).setWidth 32 = x :=
    BitVec.eq_of_toNat_eq ((toNat_lowWord (hnat ▸ hx)).trans hnat)
  rw [decode_of_low (hnat ▸ hx), hback]

/-- A word with a legal `op` (R103). -/
theorem decodeWord_of_opField {w : CmdWord} {op : Opcode} (h : opField w = op.code) :
    decodeWord w = decodeOperands op w := by
  rw [decodeWord, h, Opcode.ofCode?_code]

/-- A word with an `op` that is not in the map (R103). -/
theorem decodeWord_of_unlisted {w : CmdWord} (h : ∀ op : Opcode, op.code ≠ opField w) :
    decodeWord w = .illegal .illegalOpcode := by
  rw [decodeWord, Opcode.ofCode?_eq_none h]

/-- A word with a legal `op` that the last two tests of R101 refuse (R104). -/
def BadOperands (op : Opcode) (w : CmdWord) : Prop :=
  w &&& op.format.mask ≠ op.matchWord ∨ (op = .fldc ∧ selectorLegal (selectorField w) = false)

theorem not_badOperands_iff {op : Opcode} {w : CmdWord} :
    ¬ BadOperands op w ↔
      w &&& op.format.mask = op.matchWord ∧ (op = .fldc → selectorLegal (selectorField w) = true) := by
  simp only [BadOperands, not_or, not_and, ne_eq, not_not, Bool.not_eq_false]

theorem decodeOperands_of_bad {op : Opcode} {w : CmdWord} (h : BadOperands op w) :
    decodeOperands op w = .illegal .illegalOperand := by
  rw [decodeOperands]
  split
  · rfl
  next hm => exact if_pos (h.resolve_left hm)

theorem decodeOperands_of_not_bad {op : Opcode} {w : CmdWord} (h : ¬ BadOperands op w) :
    decodeOperands op w = .legal (commandOf op w) := by
  obtain ⟨hm, hs⟩ := not_or.1 h
  rw [decodeOperands, if_neg hm, if_neg hs]

theorem decodeOperands_eq_illegal_iff {op : Opcode} {w : CmdWord} :
    decodeOperands op w = .illegal .illegalOperand ↔ BadOperands op w := by
  refine ⟨fun h => ?_, decodeOperands_of_bad⟩
  by_contra hbad
  cases (decodeOperands_of_not_bad hbad).symm.trans h

/-- A legal word is one whose masked bits are those of its command's match, with a legal selector (R93, R104). -/
theorem decodeWord_eq_legal_iff {w : CmdWord} {i : Instr} :
    decodeWord w = .legal i ↔ ∃ op : Opcode, w &&& op.format.mask = op.matchWord ∧
      (op = .fldc → selectorLegal (selectorField w) = true) ∧ commandOf op w = i := by
  constructor
  · intro h
    cases hop : Opcode.ofCode? (opField w) with
    | none => rw [decodeWord, hop] at h; cases h
    | some op =>
      rw [decodeWord_of_opField (Opcode.code_of_ofCode? hop).symm] at h
      by_cases hbad : BadOperands op w
      · cases (decodeOperands_of_bad hbad).symm.trans h
      · obtain ⟨hm, hs⟩ := not_badOperands_iff.1 hbad
        exact ⟨op, hm, hs, Decoded.legal.inj ((decodeOperands_of_not_bad hbad).symm.trans h)⟩
  · rintro ⟨op, hm, hs, rfl⟩
    obtain ⟨hop, _⟩ := (mask_eq_matchWord_iff w op).1 hm
    rw [decodeWord_of_opField hop, decodeOperands_of_not_bad (not_badOperands_iff.2 ⟨hm, hs⟩)]

/-! ### Encoding, then decoding -/

/-- The masked bits of an encoded command, for every command (Laws/PerInstr.lean). -/
theorem encode_mask (i : Instr) (h : i.wf = true) : encode i &&& i.opcode.format.mask = i.opcode.matchWord := by
  cases i with
  | nop => exact Laws.EncodingMatchesTable.nop h
  | fmov rd rs => exact Laws.EncodingMatchesTable.fmov rd rs h
  | fldc rd c => exact Laws.EncodingMatchesTable.fldc rd c h
  | chkovf rs => exact Laws.EncodingMatchesTable.chkovf rs h
  | fixovf rd rs => exact Laws.EncodingMatchesTable.fixovf rd rs h
  | fixunf rd rs => exact Laws.EncodingMatchesTable.fixunf rd rs h
  | feq rs1 rs2 => exact Laws.EncodingMatchesTable.feq rs1 rs2 h
  | wadd rd rs1 rs2 => exact Laws.EncodingMatchesTable.wadd rd rs1 rs2 h
  | wsub rd rs1 rs2 => exact Laws.EncodingMatchesTable.wsub rd rs1 rs2 h
  | fadd rd rs1 rs2 => exact Laws.EncodingMatchesTable.fadd rd rs1 rs2 h
  | fsub rd rs1 rs2 => exact Laws.EncodingMatchesTable.fsub rd rs1 rs2 h
  | fneg rd rs => exact Laws.EncodingMatchesTable.fneg rd rs h
  | bmul rd rs1 rs2 => exact Laws.EncodingMatchesTable.bmul rd rs1 rs2 h
  | bsqr rd rs => exact Laws.EncodingMatchesTable.bsqr rd rs h
  | mmul rd rs1 rs2 => exact Laws.EncodingMatchesTable.mmul rd rs1 rs2 h
  | msqr rd rs => exact Laws.EncodingMatchesTable.msqr rd rs h
  | tomont rd rs => exact Laws.EncodingMatchesTable.tomont rd rs h
  | frommont rd rs => exact Laws.EncodingMatchesTable.frommont rd rs h
  | pow rd rs1 rs2 => exact Laws.EncodingMatchesTable.pow rd rs1 rs2 h
  | inv rd rs => exact Laws.EncodingMatchesTable.inv rd rs h
  | rand rd => exact Laws.EncodingMatchesTable.rand rd h

/-- A well-formed `FLDC` is encoded with its legal selector (R94). -/
theorem selectorLegal_encode {i : Instr} (h : i.wf = true) (hf : i.opcode = .fldc) :
    selectorLegal (selectorField (encode i)) = true := by
  cases i with
  | fldc rd c =>
    rw [encode, selectorField_assemble]
    exact h
  | _ => cases hf

/-- The operands read from an encoded command are its own. -/
theorem commandOf_encode (i : Instr) : commandOf i.opcode (encode i) = i := by
  cases i <;>
    simp only [Instr.opcode, encode, commandOf, rdField_assemble, rs1Field_assemble, rs2Field_assemble,
      selectorField_assemble]

/-- Settles O1: the encoded word passes both tests, and its operands are read back. -/
theorem decodeInvertsEncode : Obligations.DecodeInvertsEncode := by
  intro i h
  rw [commandValue, decode_setWidth]
  exact decodeWord_eq_legal_iff.2 ⟨i.opcode, encode_mask i h, selectorLegal_encode h, commandOf_encode i⟩

/-- Settles O5: each word is the encoding of its command. -/
theorem wordsOfTheMapDecode : Obligations.WordsOfTheMapDecode :=
  have h := decodeInvertsEncode
  ⟨h .nop rfl, h (.fldc .f0 5#4) rfl, h (.chkovf .f2) rfl, h (.feq .f1 .f2) rfl, h (.fadd .f3 .f1 .f2) rfl,
    h (.bmul .f7 .f7 .f7) rfl, h (.tomont .f3 .f1) rfl, h (.pow .f3 .f1 .f2) rfl, h (.rand .f7) rfl⟩

/-! ### Decoding, then encoding -/

/-- The value of field `rd` in the encoding of a command read from `w`. -/
def Format.rdOperand (w : CmdWord) : Format → BitVec 4
  | .d | .ds | .dc | .dss => (rdField w).code
  | .z | .s | .ss => 0#4

/-- The value of field `rs1` in the encoding of a command read from `w`. -/
def Format.rs1Operand (w : CmdWord) : Format → BitVec 4
  | .s | .ss | .ds | .dss => (rs1Field w).code
  | .dc => selectorField w
  | .z | .d => 0#4

/-- The value of field `rs2` in the encoding of a command read from `w`. -/
def Format.rs2Operand (w : CmdWord) : Format → BitVec 4
  | .ss | .dss => (rs2Field w).code
  | .z | .d | .s | .ds | .dc => 0#4

theorem encode_commandOf (op : Opcode) (w : CmdWord) :
    encode (commandOf op w) =
      assemble op (op.format.rdOperand w) (op.format.rs1Operand w) (op.format.rs2Operand w) := by
  cases op <;> rfl

/-- An unused field that passes its mask test is 0 (R104). -/
theorem zero_of_and_fifteen {b : BitVec 4} (h : b &&& 15#4 = 0#4) : 0#4 = b :=
  h.symm.trans BitVec.and_allOnes

theorem Format.rdOperand_eq {f : Format} {w : CmdWord} (h : rdBits w &&& f.rdMask = 0#4) :
    f.rdOperand w = rdBits w := by
  cases f with
  | d | ds | dc | dss => exact (congrArg FReg.code (rdField_eq w)).trans (FReg.code_ofBits _ h)
  | z | s | ss => exact zero_of_and_fifteen h

theorem Format.rs1Operand_eq {f : Format} {w : CmdWord} (h : rs1Bits w &&& f.rs1Mask = 0#4) :
    f.rs1Operand w = rs1Bits w := by
  cases f with
  | s | ss | ds | dss => exact (congrArg FReg.code (rs1Field_eq w)).trans (FReg.code_ofBits _ h)
  | dc => rfl
  | z | d => exact zero_of_and_fifteen h

theorem Format.rs2Operand_eq {f : Format} {w : CmdWord} (h : rs2Bits w &&& f.rs2Mask = 0#4) :
    f.rs2Operand w = rs2Bits w := by
  cases f with
  | ss | dss => exact (congrArg FReg.code (rs2Field_eq w)).trans (FReg.code_ofBits _ h)
  | z | d | s | ds | dc => exact zero_of_and_fifteen h

/-- A word that passes the mask test is the encoding of the command read from it. -/
theorem encode_commandOf_of_mask {op : Opcode} {w : CmdWord} (h : w &&& op.format.mask = op.matchWord) :
    encode (commandOf op w) = w := by
  obtain ⟨hop, hrd, hrs1, hrs2, hzero⟩ := (mask_eq_matchWord_iff w op).1 h
  rw [encode_commandOf, Format.rdOperand_eq hrd, Format.rs1Operand_eq hrs1, Format.rs2Operand_eq hrs2]
  exact word_eq_of_fields ((opField_assemble ..).trans hop.symm) (rdBits_assemble ..) (rs1Bits_assemble ..)
    (rs2Bits_assemble ..) ((zeroBits_assemble ..).trans hzero.symm)

/-- The command read from a word is well formed unless it is `FLDC` with a reserved selector. -/
theorem wf_commandOf {op : Opcode} {w : CmdWord} (h : op = .fldc → selectorLegal (selectorField w) = true) :
    (commandOf op w).wf = true := by
  cases op with
  | fldc => exact h rfl
  | _ => rfl

/-- Settles O2. -/
theorem legalValueIsItsEncoding : Obligations.LegalValueIsItsEncoding := by
  intro w i h
  obtain hlow | hhigh := Nat.lt_or_ge w.toNat (2 ^ 32)
  · rw [decode_of_low hlow] at h
    obtain ⟨op, hm, hs, rfl⟩ := decodeWord_eq_legal_iff.1 h
    refine ⟨wf_commandOf hs, ?_⟩
    rw [commandValue, encode_commandOf_of_mask hm]
    apply BitVec.eq_of_toNat_eq
    rw [BitVec.toNat_setWidth, toNat_lowWord hlow, Nat.mod_eq_of_lt w.isLt]
  · rw [decode_of_high hhigh] at h
    cases h

/-! ### The illegal values -/

/-- Settles O3: the seven ranges are what `Opcode.code_ranges` leaves out. -/
theorem highBitsAndUnknownOpcodesAreIllegal : Obligations.HighBitsAndUnknownOpcodesAreIllegal := by
  intro w
  refine ⟨decode_of_high, fun hlow hrange => ?_⟩
  rw [decode_of_low hlow]
  refine decodeWord_of_unlisted fun op hop => ?_
  have hcode : op.code.toNat = w.toNat % 256 := by rw [hop, opField_toNat, toNat_lowWord hlow]
  have hlisted := op.code_ranges
  omega

/-- The mask test of a used register field (R104). -/
theorem and_eight_eq_zero_iff : ∀ b : BitVec 4, b &&& 8#4 = 0#4 ↔ b.toNat < 8 := by
  decide

/-- The mask test of an unused field (R104). -/
theorem and_fifteen_eq_zero_iff : ∀ b : BitVec 4, b &&& 15#4 = 0#4 ↔ b.toNat = 0 := by
  decide

/-- The reserved selectors are 6 to 15 (10_state.md R37). -/
theorem selectorLegal_eq_false_iff (w : CmdWord) :
    selectorLegal (selectorField w) = false ↔ 6 ≤ (rs1Bits w).toNat := by
  rw [selectorLegal, decide_eq_false_iff_not, not_le]
  rfl

/-- Settles O4: the mask test field by field, for each of the seven formats. -/
theorem badFieldsAreIllegalOperands : Obligations.BadFieldsAreIllegalOperands := by
  intro w op hlow hcode
  have hnat := toNat_lowWord hlow
  have hop : opField (w.setWidth 32) = op.code := by
    apply BitVec.eq_of_toNat_eq
    rw [opField_toNat, hnat, hcode]
  have hzero : zeroBits (w.setWidth 32) = 0#12 ↔ w.toNat / 2 ^ 20 = 0 := by
    rw [BitVec.toNat_eq, zeroBits_toNat, hnat, BitVec.toNat_ofNat]
  rw [decode_of_low hlow, decodeWord_of_opField hop, decodeOperands_eq_illegal_iff, BadOperands, Ne,
    mask_eq_matchWord_iff, hzero, selectorLegal_eq_false_iff, ← op.format_eq_dc_iff, iff_true_intro hop, true_and]
  cases op.format <;>
    simp only [Format.rdMask, Format.rs1Mask, Format.rs2Mask, and_eight_eq_zero_iff, and_fifteen_eq_zero_iff,
      rdBits_toNat, rs1Bits_toNat, rs2Bits_toNat, hnat, reduceCtorEq, false_and, or_false, true_and] <;>
    omega

end Sys2Proof
end

section
/-! ## The engine's turn, the frame of a command and the accept step (30_encoding.md R96, R99, R100, R106) -/

namespace Sys2Proof.Machine

/-! ### The engine's turn -/

/-- In phase BUSY, out of reset, the engine runs the latched command (30_encoding.md R100). -/
theorem engineStep_of_latched {s : State} {i : Instr} (hb : s.busy = true) (hr : s.resetHeld = false)
    (hl : latchedCommand s.cmdLatch = some i) : engineStep s = exec i s := by
  simp only [engineStep, hb, hr, hl, Bool.not_false, Bool.and_self, if_true]

/-- The step on the engine's turn, with the event that gives the turn, if there is one, taken off. -/
theorem step_of_engineTurn {s : State} (h : s.engineTurn = true) : step s = engineStep s.afterTurn := by
  cases ha : s.agenda with
  | nil => rw [State.afterTurn_of_nil ha, step, nextStep, ha]
  | cons e rest =>
    rw [State.engineTurn, ha] at h
    cases beq_iff_eq.1 h
    rw [State.afterTurn_of_cons ha, step, nextStep, ha]
    rfl

/-- The step on the engine's turn runs the latched command. -/
theorem step_of_latched {s : State} {i : Instr} (turn : s.engineTurn = true) (hb : s.busy = true)
    (hr : s.resetHeld = false) (hl : latchedCommand s.cmdLatch = some i) : step s = exec i s.afterTurn :=
  (step_of_engineTurn turn).trans (engineStep_of_latched (s := s.afterTurn) hb hr hl)

/-- Settles O15. -/
theorem stepRunsTheLatchedCommand : Obligations.StepRunsTheLatchedCommand := by
  intro s i hb hr hl
  refine ⟨fun ha => ?_, fun rest ha => ?_⟩
  · have turn : s.engineTurn = true := by rw [State.engineTurn, ha]
    rw [step_of_latched turn hb hr hl, State.afterTurn_of_nil ha]
  · have turn : s.engineTurn = true := by rw [State.engineTurn, ha]; rfl
    rw [step_of_latched turn hb hr hl, State.afterTurn_of_cons ha]

/-! ### Every well-formed command answers -/

/-- Every legal selector names a constant of the ROM (10_state.md R37). -/
theorem exists_romConst {c : BitVec 4} (h : selectorLegal c = true) : ∃ v, romConst c = some v := by
  have hall : ∀ c : BitVec 4, selectorLegal c = true → (romConst c).isSome = true := by decide
  exact Option.isSome_iff_exists.1 (hall c h)

/-- A command that the decoder can give never stops the machine (46_move_system.md R222, 60_exceptions.md R230). -/
theorem exists_exec_next {i : Instr} (h : i.wf = true) (s : State) : ∃ t, exec i s = .next t := by
  cases i with
  | fldc rd c =>
    obtain ⟨v, hv⟩ := exists_romConst h
    exact ⟨s.completeReg rd (.value v), by simp only [exec, execFldc, hv]⟩
  | rand rd =>
    simp only [exec, execRand]
    split
    · exact ⟨_, rfl⟩
    · exact ⟨_, rfl⟩
  | _ => exact ⟨_, rfl⟩

/-- The latch holds no ill-formed command. -/
theorem wf_of_latchedCommand {x : CmdWord} {i : Instr} (h : latchedCommand x = some i) : i.wf = true := by
  rw [latchedCommand] at h
  cases hd : decode (x.setWidth 64) with
  | illegal c => rw [hd] at h; cases h
  | legal j =>
    rw [hd] at h
    cases h
    exact (legalValueIsItsEncoding _ _ hd).1

/-! ### The frame of a command -/

/-- A command other than `RAND` completes and leaves the entropy stream (30_encoding.md R96, R100). -/
theorem ExecKind.completion {i : Instr} {s t : State} (k : ExecKind i s t) (hi : isRand i = false) :
    t.busy = false ∧ t.entropy = s.entropy ∧ t.entropyPos = s.entropyPos := by
  cases k with
  | completed regs flags n hi' hregs hflags h => subst h; exact ⟨rfl, rfl, rfl⟩
  | waiting rd hrand h => subst hrand; cases hi
  | rejected rd hrand w0 w1 w2 w3 rest he h => subst hrand; cases hi
  | accepted rd hrand w0 w1 w2 w3 rest he v h => subst hrand; cases hi

/-- A command completes, or leaves the phase and every register, as `RAND` does until a draw is accepted
(45_sampling.md R213, R215). -/
theorem ExecKind.completes_or_keeps_regs {i : Instr} {s t : State} (k : ExecKind i s t) :
    t.busy = false ∨ (t.busy = s.busy ∧ t.regs = s.regs) := by
  cases k with
  | completed regs flags n hi hregs hflags h => subst h; exact .inl rfl
  | waiting rd hi h => subst h; exact .inr ⟨rfl, rfl⟩
  | rejected rd hi w0 w1 w2 w3 rest he h => subst h; exact .inr ⟨rfl, rfl⟩
  | accepted rd hi w0 w1 w2 w3 rest he v h => subst h; exact .inl rfl

/-- A command leaves `BASE` and what stands at the port. -/
theorem ExecKind.port {i : Instr} {s t : State} (k : ExecKind i s t) :
    t.baseBlock = s.baseBlock ∧ t.agenda = s.agenda ∧ t.replies = s.replies := by
  cases k with
  | completed regs flags n hi hregs hflags h => subst h; exact ⟨rfl, rfl, rfl⟩
  | waiting rd hi h => subst h; exact ⟨rfl, rfl, rfl⟩
  | rejected rd hi w0 w1 w2 w3 rest he h => subst h; exact ⟨rfl, rfl, rfl⟩
  | accepted rd hi w0 w1 w2 w3 rest he v h => subst h; exact ⟨rfl, rfl, rfl⟩

/-- Settles O17, by what `ExecKind` says of each part of the machine. -/
theorem commandsTouchOnlyTheirDestinations : Obligations.CommandsTouchOnlyTheirDestinations := by
  intro i s t h
  have k := exec_next h
  obtain ⟨hfault, hcause, hlatch, hheld⟩ := k.frame
  obtain ⟨hbase, hagenda, hreplies⟩ := k.port
  refine ⟨fun r hr => ?_, fun f hf => ?_, hfault, hcause, hlatch, hheld, hbase, hagenda, hreplies, k.completion,
    fun _ => k.completes_or_keeps_regs⟩
  · by_contra hne
    exact hr (k.completed_of_cell_ne hne).2
  · by_contra hne
    exact hf (flagWritten_of_flags_ne k.flags hne).1

/-- Settles O16: the latched command is well formed, so it answers, and `ExecKind.completion` gives the phase. -/
theorem everyCommandButRandCompletesInOneStep : Obligations.EveryCommandButRandCompletesInOneStep := by
  intro s i hb hr turn hl hi
  obtain ⟨t, ht⟩ := exists_exec_next (wf_of_latchedCommand hl) s.afterTurn
  obtain ⟨hidle, _⟩ := (exec_next ht).completion hi
  exact ⟨t, (step_of_latched turn hb hr hl).trans ht, hidle⟩

/-! ### The accept step -/

/-- The first fault is recorded with its code (60_exceptions.md R233). -/
theorem State.raiseFault_of_good {s : State} (h : s.fault = false) (c : Cause) :
    s.raiseFault c = { s with fault := true, cause := causeCode c } := by
  rw [State.raiseFault, h]
  rfl

/-- Settles O20, by the cases of `State.acceptCommand_cases`. -/
theorem cmdWriteIsTheAcceptStep : Obligations.CmdWriteIsTheAcceptStep := by
  intro s w rest h
  have hstep := step_of_write (r := .cmd) h
  rw [State.busWrite] at hstep
  rw [hstep]
  obtain ⟨hf, he⟩ | ⟨hf, hb, he⟩ | ⟨hf, hb, c, hd, he⟩ | ⟨hf, hb, i, hd, he⟩ :=
    State.acceptCommand_cases { s with agenda := rest } w
  · rw [he, if_pos hf]
    rfl
  · rw [he, State.raiseFault_of_good hf, if_neg (Bool.eq_false_iff.1 hf), if_pos hb]
    rfl
  · rw [he, State.raiseFault_of_good hf, if_neg (Bool.eq_false_iff.1 hf), if_neg (Bool.eq_false_iff.1 hb), hd]
    rfl
  · rw [he, if_neg (Bool.eq_false_iff.1 hf), if_neg (Bool.eq_false_iff.1 hb), hd]
    rfl

end Sys2Proof.Machine
end

section
/-! ## The limb primitives and the 256-bit chains (40_fixups.md R120 to R123)

Each primitive is tied to one equation over the natural numbers: its word, and its carry or borrow times `2^64`. A
chain is the four equations of its limbs added up. -/

namespace Sys2Proof.Machine

/-! ### The limb primitives -/

/-- A carry or a borrow as a number is 1 where its condition holds. -/
theorem toNat_decide (p : Prop) [Decidable p] : (decide p).toNat = if p then 1 else 0 := by
  by_cases h : p <;> simp [h]

theorem adc_fst_toNat (x y : U64) (c : Bool) : (adc x y c).1.toNat = (x.toNat + y.toNat + c.toNat) % 2 ^ 64 :=
  BitVec.toNat_ofNat ..

theorem sbb_fst_toNat (x y : U64) (c : Bool) :
    ((sbb x y c).1.toNat : Int) = ((x.toNat : Int) - y.toNat - c.toNat) % 2 ^ 64 := by
  rw [sbb, BitVec.toNat_ofInt]
  omega

theorem sbb_snd_iff (x y : U64) (c : Bool) :
    (sbb x y c).2 = true ↔ (x.toNat : Int) - y.toNat - c.toNat < 0 :=
  decide_eq_true_iff

/-- `adc` loses nothing: its word and its carry are the sum. -/
theorem adc_sum (x y : U64) (c : Bool) :
    (adc x y c).1.toNat + (adc x y c).2.toNat * 2 ^ 64 = x.toNat + y.toNat + c.toNat := by
  have hc := c.toNat_le
  have hcarry : (adc x y c).2.toNat = if 2 ^ 64 ≤ x.toNat + y.toNat + c.toNat then 1 else 0 := toNat_decide _
  rw [adc_fst_toNat, hcarry]
  split <;> omega

/-- `sbb` loses nothing: its word is the difference, with `2^64` added where it borrows. -/
theorem sbb_diff (x y : U64) (c : Bool) :
    (sbb x y c).1.toNat + y.toNat + c.toNat = x.toNat + (sbb x y c).2.toNat * 2 ^ 64 := by
  have hc := c.toNat_le
  have hword := sbb_fst_toNat x y c
  have hborrow : (sbb x y c).2.toNat = if (x.toNat : Int) - y.toNat - c.toNat < 0 then 1 else 0 := toNat_decide _
  rw [hborrow]
  split <;> omega

/-- Settles O31: the words by their definitions, the carry from `adc_sum`. -/
theorem limbPrimitivesMeetTheirContracts : Obligations.LimbPrimitivesMeetTheirContracts := by
  intro x y c
  refine ⟨⟨adc_fst_toNat x y c, ?_⟩, ⟨sbb_fst_toNat x y c, sbb_snd_iff x y c⟩, BitVec.toNat_ofNat .., ?_⟩
  · have hsum := adc_sum x y c
    omega
  · have hprod : x.toNat * y.toNat < 2 ^ 64 * 2 ^ 64 := Nat.mul_lt_mul'' x.isLt y.isLt
    rw [wmul, BitVec.toNat_ofNat, Nat.shiftRight_eq_div_pow]
    omega

/-! ### The chains -/

/-- An element put together from limbs is the number with these digits to the base `2^64`. -/
theorem ofLimbs_toNat (a b c d : U64) :
    (ofLimbs a b c d).toNat = a.toNat + b.toNat * 2 ^ 64 + c.toNat * 2 ^ 128 + d.toNat * 2 ^ 192 := by
  obtain ⟨h0, h1, h2, h3⟩ := limb_ofLimbs a b c d
  rw [toNat_eq_sum_limbs, h0, h1, h2, h3]

/-- The `adc` chain loses nothing: its element and its carry are the sum. -/
theorem add256_sum (x y : U256) :
    (add256 x y).1.toNat + (add256 x y).2.toNat * 2 ^ 256 = x.toNat + y.toNat := by
  simp only [add256, ofLimbs_toNat]
  generalize h0 : adc (limb x .l0) (limb y .l0) false = r0
  generalize h1 : adc (limb x .l1) (limb y .l1) r0.2 = r1
  generalize h2 : adc (limb x .l2) (limb y .l2) r1.2 = r2
  have s0 := adc_sum (limb x .l0) (limb y .l0) false
  have s1 := adc_sum (limb x .l1) (limb y .l1) r0.2
  have s2 := adc_sum (limb x .l2) (limb y .l2) r1.2
  have s3 := adc_sum (limb x .l3) (limb y .l3) r2.2
  rw [h0, Bool.toNat_false] at s0
  rw [h1] at s1
  rw [h2] at s2
  have hx := toNat_eq_sum_limbs x
  have hy := toNat_eq_sum_limbs y
  omega

/-- The `sbb` chain loses nothing: its element is the difference, with `2^256` added where it borrows. -/
theorem sub256_diff (x y : U256) :
    (sub256 x y).1.toNat + y.toNat = x.toNat + (sub256 x y).2.toNat * 2 ^ 256 := by
  simp only [sub256, ofLimbs_toNat]
  generalize h0 : sbb (limb x .l0) (limb y .l0) false = r0
  generalize h1 : sbb (limb x .l1) (limb y .l1) r0.2 = r1
  generalize h2 : sbb (limb x .l2) (limb y .l2) r1.2 = r2
  have s0 := sbb_diff (limb x .l0) (limb y .l0) false
  have s1 := sbb_diff (limb x .l1) (limb y .l1) r0.2
  have s2 := sbb_diff (limb x .l2) (limb y .l2) r1.2
  have s3 := sbb_diff (limb x .l3) (limb y .l3) r2.2
  rw [h0, Bool.toNat_false] at s0
  rw [h1] at s1
  rw [h2] at s2
  have hx := toNat_eq_sum_limbs x
  have hy := toNat_eq_sum_limbs y
  omega

/-- The element of the `adc` chain is the sum modulo `2^256`. -/
@[simp] theorem add256_fst (x y : U256) : (add256 x y).1 = x + y := by
  apply BitVec.eq_of_toNat_eq
  have hsum := add256_sum x y
  have hlt := (add256 x y).1.isLt
  rw [BitVec.toNat_add]
  omega

/-- The carry of the `adc` chain says whether the sum reaches `2^256`. -/
@[simp] theorem add256_snd (x y : U256) : (add256 x y).2 = decide (2 ^ 256 ≤ x.toNat + y.toNat) := by
  have hsum := add256_sum x y
  have hlt := (add256 x y).1.isLt
  rw [Bool.eq_iff_iff, decide_eq_true_iff, ← Bool.toNat_eq_one]
  omega

/-- The element of the `sbb` chain is the difference modulo `2^256`. -/
@[simp] theorem sub256_fst (x y : U256) : (sub256 x y).1 = x - y := by
  apply BitVec.eq_of_toNat_eq
  have hdiff := sub256_diff x y
  have hlt := (sub256 x y).1.isLt
  rw [BitVec.toNat_sub]
  omega

/-- The borrow of the `sbb` chain says whether the first operand is the smaller one. -/
@[simp] theorem sub256_snd (x y : U256) : (sub256 x y).2 = decide (x.toNat < y.toNat) := by
  have hdiff := sub256_diff x y
  have hlt := (sub256 x y).1.isLt
  rw [Bool.eq_iff_iff, decide_eq_true_iff, ← Bool.toNat_eq_one]
  omega

/-- Settles O32: the equations of the two chains, solved for their parts. -/
theorem wideChainsAddAndSubtract : Obligations.WideChainsAddAndSubtract := by
  intro x y
  have hsum := add256_sum x y
  have hdiff := sub256_diff x y
  have hadd := (add256 x y).1.isLt
  have hsub := (sub256 x y).1.isLt
  refine ⟨⟨?_, ?_⟩, ?_, ?_⟩
  · omega
  · omega
  · omega
  · rw [sub256_snd, decide_eq_true_iff]

end Sys2Proof.Machine
end

section
/-! ## The fixups (40_fixups.md R132 to R135) -/

namespace Sys2Proof.Machine

/-- The mask leaves `P` or clears it (R132). -/
theorem maskP_eq (b : Bool) : maskP b = if b then romP else 0#256 := by
  cases b
  · rfl
  · simp only [maskP, mask64, if_true, BitVec.and_allOnes, ofLimbs_limb]

/-- `fixOverflow` subtracts `P` once, where it can (R133). -/
theorem fixOverflow_eq (x : U256) : fixOverflow x = if modulus ≤ x.toNat then x - romP else x := by
  rw [fixOverflow, sub256_fst, maskP_eq, geP]
  by_cases h : modulus ≤ x.toNat <;> simp [h]

/-- `fixUnderflow` adds `P` modulo `2^256` where the borrow is set (R134). -/
theorem fixUnderflow_eq (x : U256) (b : Bool) : fixUnderflow x b = if b then x + romP else x := by
  rw [fixUnderflow, add256_fst, maskP_eq]
  cases b <;> simp

theorem fixOverflow_toNat (x : U256) :
    (fixOverflow x).toNat = if modulus ≤ x.toNat then x.toNat - modulus else x.toNat := by
  rw [fixOverflow_eq]
  split
  next h => exact BitVec.toNat_sub_of_le h
  next => rfl

/-- One `fixOverflow` canonicalises every value below `2P`. -/
theorem fixOverflow_toNat_of_lt {x : U256} (h : x.toNat < 2 * modulus) :
    (fixOverflow x).toNat = x.toNat % modulus := by
  rw [fixOverflow_toNat]
  rw [modulus_eq] at h ⊢
  split <;> omega

/-- The 256-bit sum of canonical operands does not wrap. -/
theorem toNat_add_of_canonical {u v : U256} (hu : u.toNat < modulus) (hv : v.toNat < modulus) :
    (u + v).toNat = u.toNat + v.toNat := by
  rw [modulus_eq] at hu hv
  exact BitVec.toNat_add_of_lt (by omega)

/-- `fixUnderflow` of a difference and its borrow is the modular difference of canonical operands. -/
theorem fixUnderflow_sub_toNat {u v : U256} (hu : u.toNat < modulus) (hv : v.toNat < modulus) :
    ((fixUnderflow (u - v) (decide (u.toNat < v.toNat))).toNat : Int) = ((u.toNat : Int) - v.toNat) % modulus := by
  have hp : romP.toNat = modulus := rfl
  rw [fixUnderflow_eq]
  by_cases h : u.toNat < v.toNat
  · rw [decide_eq_true h, if_pos rfl, BitVec.toNat_add, BitVec.toNat_sub, hp]
    rw [modulus_eq] at hu hv ⊢
    omega
  · rw [decide_eq_false h, if_neg Bool.false_ne_true, BitVec.toNat_sub_of_le (BitVec.le_def.2 (Nat.le_of_not_lt h))]
    rw [modulus_eq] at hu hv ⊢
    omega

/-- Each of `k` fixups takes off one `P`, as long as there is one. -/
theorem fixOverflow_iterate_toNat (x : U256) (k : Nat) :
    (fixOverflow^[k] x).toNat = x.toNat - min k (x.toNat / modulus) * modulus := by
  induction k with
  | zero => simp
  | succ k ih =>
    rw [Function.iterate_succ_apply', fixOverflow_toNat, ih]
    rw [modulus_eq]
    split <;> omega

/-- Settles O33: one fixup on canonical operands, then `fixOverflow_iterate_toNat` at 5 and at 4 with `2^256 < 6P`. -/
theorem fixupRanges : Obligations.FixupRanges := by
  refine ⟨fun u v hu hv => ?_, fixOverflow_iterate_toNat, fun x => ?_⟩
  · have hsum := toNat_add_of_canonical hu hv
    have hlt : (u + v).toNat < 2 * modulus := by omega
    rw [add256_fst, add256_snd, sub256_fst, sub256_snd, fixOverflow_toNat_of_lt hlt, ← hsum]
    exact ⟨decide_eq_false (Nat.not_le.2 (u + v).isLt), hlt, rfl, fixUnderflow_sub_toNat hu hv⟩
  · have hx := x.isLt
    rw [fixOverflow_iterate_toNat, fixOverflow_iterate_toNat, modulus_eq]
    omega

end Sys2Proof.Machine
end

section
/-! ## The commands `CHKOVF`, `FEQ`, `FIXOVF`, `FIXUNF`, `WADD` and `WSUB` (40_fixups.md R126 to R131)

First the completion of a command whose result is known, then each command on written sources. -/

namespace Sys2Proof.Machine

/-- A command that computes a value ends with it in its destination. -/
@[simp] theorem State.completeReg_value (s : State) (rd : FReg) (v : U256) :
    s.completeReg rd (.value v) = s.withResult rd v := rfl

/-- A command that computes a flag ends with it in `FLAGS`. -/
@[simp] theorem State.completeFlag_some (s : State) (k : Flag) (b : Bool) :
    s.completeFlag k (some b) = s.withFlag k b := rfl

/-- A wide command ends with both. -/
@[simp] theorem State.completeRegFlag_value_some (s : State) (rd : FReg) (v : U256) (k : Flag) (b : Bool) :
    s.completeRegFlag rd (.value v) k (some b) = { s.withResult rd v with flags := s.flags.put k b } := rfl

/-- An element is the pattern of its own number. -/
theorem ofNat_toNat_eq (x : U256) : BitVec.ofNat 256 x.toNat = x := by
  rw [BitVec.ofNat_toNat, BitVec.setWidth_eq]

/-- The limb-wise comparison is that of the patterns (R129). -/
theorem eqLimbs_eq (x y : U256) : eqLimbs x y = decide (x = y) := by
  by_cases h : x = y
  · simp [eqLimbs, h]
  · rw [decide_eq_false h, Bool.eq_false_iff]
    intro heq
    simp only [eqLimbs, Bool.and_eq_true, beq_iff_eq] at heq
    obtain ⟨⟨⟨h0, h1⟩, h2⟩, h3⟩ := heq
    exact h (eq_of_limb_eq fun j => match j with | .l0 => h0 | .l1 => h1 | .l2 => h2 | .l3 => h3)

/-- Settles O34, by the definition of `geP`. -/
theorem chkovfComparesWithP : Obligations.ChkovfComparesWithP := by
  intro s rs x h
  simp only [exec, execChkovf, h, testOne, State.completeFlag_some, geP]

/-- Settles O35, by `eqLimbs_eq`. -/
theorem feqComparesPatterns : Obligations.FeqComparesPatterns := by
  intro s rs1 rs2 x y h1 h2
  simp only [exec, execFeq, h1, h2, testTwo, State.completeFlag_some, eqLimbs_eq]

/-- Settles O36, by the value of `fixOverflow_toNat`. -/
theorem fixovfSubtractsPOnce : Obligations.FixovfSubtractsPOnce := by
  intro s rd rs x h
  simp only [exec, execFixovf, h, totalOne, State.completeReg_value, ← fixOverflow_toNat, ofNat_toNat_eq]

/-- Settles O37, by the two cases of `fixUnderflow_eq`. -/
theorem fixunfAddsPOnBorrow : Obligations.FixunfAddsPOnBorrow := by
  intro s rd rs x h
  have hvalue : fixUnderflow x s.flags.brw =
      BitVec.ofNat 256 (if s.flags.brw then (x.toNat + modulus) % 2 ^ 256 else x.toNat) := by
    rw [fixUnderflow_eq]
    split
    · rw [modulus, ← BitVec.toNat_add, ofNat_toNat_eq]
    · rw [ofNat_toNat_eq]
  simp only [exec, execFixunf, h, totalOne, State.completeReg_value, hvalue]

/-- Settles O38, by the sum and the carry of the `adc` chain. -/
theorem waddAddsWithCarryOut : Obligations.WaddAddsWithCarryOut := by
  intro s rd rs1 rs2 x y h1 h2
  have hsum : wideSum x y = BitVec.ofNat 256 ((x.toNat + y.toNat) % 2 ^ 256) := by
    rw [wideSum, add256_fst, ← BitVec.toNat_add, ofNat_toNat_eq]
  have hcarry : carryOut x y = decide (2 ^ 256 ≤ x.toNat + y.toNat) := add256_snd x y
  simp only [exec, execWadd, h1, h2, totalTwo, testTwo, State.completeRegFlag_value_some, hsum, hcarry, FlagBits.put]

/-- Settles O39, by the difference and the borrow of the `sbb` chain. -/
theorem wsubSubtractsWithBorrowOut : Obligations.WsubSubtractsWithBorrowOut := by
  intro s rd rs1 rs2 x y h1 h2
  have hdiff : wideDiff x y = BitVec.ofNat 256 ((x.toNat + 2 ^ 256 - y.toNat) % 2 ^ 256) := by
    rw [wideDiff, sub256_fst]
    apply BitVec.eq_of_toNat_eq
    rw [BitVec.toNat_sub, BitVec.toNat_ofNat]
    omega
  have hborrow : borrowOut x y = decide (x.toNat < y.toNat) := sub256_snd x y
  simp only [exec, execWsub, h1, h2, totalTwo, testTwo, State.completeRegFlag_value_some, hdiff, hborrow, FlagBits.put]

end Sys2Proof.Machine
end

section
/-! ## Operands in and out of the domain of the modular commands (00_scope.md R16, R17)

What a modular command gives its destination on written sources: the value its rule computes on canonical operands, a
free value otherwise. -/

namespace Sys2Proof.Machine

/-- A canonical operand passes the range test. -/
theorem canonical_of_lt {x : U256} (h : x.toNat < modulus) : canonical x = true := decide_eq_true h

/-- An operand at `P` or more fails it. -/
theorem canonical_of_le {x : U256} (h : modulus ≤ x.toNat) : canonical x = false := decide_eq_false (Nat.not_lt.2 h)

theorem modularOne_of_lt (f : U256 → U256) {x : U256} (hx : x.toNat < modulus) :
    modularOne f (some x) = .value (f x) := by
  rw [modularOne, canonical_of_lt hx, if_pos rfl]

theorem modularTwo_of_lt (f : U256 → U256 → U256) {x y : U256} (hx : x.toNat < modulus) (hy : y.toNat < modulus) :
    modularTwo f (some x) (some y) = .value (f x y) := by
  rw [modularTwo, canonical_of_lt hx, canonical_of_lt hy, Bool.and_self, if_pos rfl]

theorem modularOne_of_le (f : U256 → U256) {x : U256} (hx : modulus ≤ x.toNat) : modularOne f (some x) = .draw := by
  rw [modularOne, canonical_of_le hx, if_neg Bool.false_ne_true]

theorem modularTwo_of_le (f : U256 → U256 → U256) {x y : U256} (h : modulus ≤ x.toNat ∨ modulus ≤ y.toNat) :
    modularTwo f (some x) (some y) = .draw := by
  have hfails : (canonical x && canonical y) = false :=
    Bool.and_eq_false_iff.2 (h.imp canonical_of_le canonical_of_le)
  rw [modularTwo, hfails, if_neg Bool.false_ne_true]

/-- Only the base of `POW` has a domain (44_exp_inv.md R192). -/
theorem modularBase_of_le (f : U256 → U256 → U256) {b : U256} (e : U256) (hb : modulus ≤ b.toNat) :
    modularBase f (some b) (some e) = .draw := by
  rw [modularBase, canonical_of_le hb, if_neg Bool.false_ne_true]

/-- A command that computes a value ends with the pattern of its number. -/
theorem next_completeReg_of_value (s : State) (rd : FReg) {r : FieldResult} {v : U256} {n : Nat} (hr : r = .value v)
    (hv : v.toNat = n) :
    (.next (s.completeReg rd r) : Host.Outcome State Fault Refusal) =
      .next (s.withResult rd (BitVec.ofNat 256 n)) := by
  rw [hr, State.completeReg_value, ← hv, ofNat_toNat_eq]

/-- A command with an operand out of its domain ends with a free value, for which it takes one draw. -/
theorem next_completeReg_of_draw (s : State) (rd : FReg) {r : FieldResult} (hr : r = .draw) :
    (.next (s.completeReg rd r) : Host.Outcome State Fault Refusal) = .next (s.withFreeResult rd) := by
  rw [hr]
  rfl

/-- Settles O58: the result of each command is a draw. -/
theorem outOfDomainOperandsGiveAFreeValue : Obligations.OutOfDomainOperandsGiveAFreeValue := by
  intro s rd rs1 rs2 x y h1 h2
  constructor
  · intro h
    have hdraw : ∀ f, (.next (s.completeReg rd (modularTwo f (s.source rs1) (s.source rs2))) :
        Host.Outcome State Fault Refusal) = .next (s.withFreeResult rd) :=
      fun f => next_completeReg_of_draw s rd (by rw [h1, h2, modularTwo_of_le f h])
    exact ⟨hdraw _, hdraw _, hdraw _, hdraw _⟩
  · intro h
    have hdraw : ∀ f, (.next (s.completeReg rd (modularOne f (s.source rs1))) :
        Host.Outcome State Fault Refusal) = .next (s.withFreeResult rd) :=
      fun f => next_completeReg_of_draw s rd (by rw [h1, modularOne_of_le f h])
    exact ⟨hdraw _, hdraw _, hdraw _, hdraw _, hdraw _,
      next_completeReg_of_draw s rd (by rw [h1, h2, modularBase_of_le _ y h]), hdraw _⟩

end Sys2Proof.Machine
end

section
/-! ## `FADD`, `FSUB` and `FNEG` on canonical operands (41_additive.md R140 to R142) -/

namespace Sys2Proof.Machine

/-- The sum of canonical operands is below `2P`, so one fixup makes it the modular sum. -/
theorem fieldAdd_toNat {x y : U256} (hx : x.toNat < modulus) (hy : y.toNat < modulus) :
    (fieldAdd x y).toNat = (x.toNat + y.toNat) % modulus := by
  have hsum := toNat_add_of_canonical hx hy
  rw [fieldAdd, add256_fst, fixOverflow_toNat_of_lt (by omega), hsum]

/-- The fixup adds `P` back where the subtraction borrows. -/
theorem fieldSub_toNat {x y : U256} (hx : x.toNat < modulus) (hy : y.toNat < modulus) :
    (fieldSub x y).toNat = (x.toNat + (modulus - y.toNat)) % modulus := by
  have hdiff := fixUnderflow_sub_toNat hx hy
  rw [fieldSub, sub256_fst, sub256_snd]
  rw [modulus_eq] at hy hdiff ⊢
  omega

/-- The negation of 0 is 0, not `P`. -/
theorem fieldNeg_toNat {x : U256} (hx : x.toNat < modulus) :
    (fieldNeg x).toNat = if x.toNat = 0 then 0 else modulus - x.toNat := by
  have hzero : (0#256).toNat < modulus := by decide
  rw [fieldNeg, fieldSub_toNat hzero hx, BitVec.toNat_zero, Nat.zero_add]
  split
  next h => rw [h, Nat.sub_zero, Nat.mod_self]
  next h => exact Nat.mod_eq_of_lt (by omega)

/-- Settles O40, by `fieldAdd_toNat`. -/
theorem faddAddsModuloP : Obligations.FaddAddsModuloP := by
  intro s rd rs1 rs2 x y h1 h2 hx hy
  rw [exec, execFadd, h1, h2]
  exact next_completeReg_of_value s rd (modularTwo_of_lt fieldAdd hx hy) (fieldAdd_toNat hx hy)

/-- Settles O41, by `fieldSub_toNat` and `fieldNeg_toNat`. -/
theorem fsubAndFnegSubtractModuloP : Obligations.FsubAndFnegSubtractModuloP := by
  intro s rd rs1 rs2 x y h1 h2 hx hy
  rw [exec, execFsub, exec, execFneg, h1, h2]
  exact ⟨next_completeReg_of_value s rd (modularTwo_of_lt fieldSub hx hy) (fieldSub_toNat hx hy),
    next_completeReg_of_value s rd (modularOne_of_lt fieldNeg hx) (fieldNeg_toNat hx)⟩

end Sys2Proof.Machine
end

section
/-! ## The 512-bit products (42_barrett.md R150, R151) -/

namespace Sys2Proof.Machine

/-- `wmul` loses nothing: its two words are the halves of the product. -/
theorem wmul_product (x y : U64) : (wmul x y).1.toNat + 2 ^ 64 * (wmul x y).2.toNat = x.toNat * y.toNat := by
  obtain ⟨_, _, hlo, hhi⟩ := limbPrimitivesMeetTheirContracts x y false
  rw [hlo, hhi, Nat.mod_add_div]

/-- A partial product has the product of the limbs at its limb position. -/
theorem partialProduct_eq (x y : U256) (i j : LimbIx) :
    partialProduct x y i j =
      (limb x i).toNat * (limb y j).toNat * 2 ^ (64 * (limbIndex i + limbIndex j)) := by
  rw [partialProduct, wmul_product, Nat.shiftLeft_eq]

/-- A row multiplies all of `y` by one limb of `x` at its place. -/
theorem productRow_eq (x y : U256) (i : LimbIx) :
    productRow x y i = (limb x i).toNat * 2 ^ (64 * limbIndex i) * y.toNat := by
  simp only [productRow, partialProduct_eq, toNat_eq_sum_limbs y, limbIndex, Nat.mul_add, Nat.pow_add]
  ring

/-- A pattern of twice the width holds the whole product. -/
theorem ofNat_mul_toNat {w : ℕ} (x y : BitVec w) :
    (BitVec.ofNat (w * 2) (x.toNat * y.toNat)).toNat = x.toNat * y.toNat := by
  rw [BitVec.toNat_ofNat, Nat.mod_eq_of_lt BitVec.toNat_mul_toNat_lt]

/-- The four rows add up to the product (R150). -/
theorem mul512_toNat (x y : U256) : (mul512 x y).toNat = x.toNat * y.toNat := by
  have hrows : productRow x y .l0 + productRow x y .l1 + productRow x y .l2 + productRow x y .l3
      = x.toNat * y.toNat := by
    simp only [productRow_eq, toNat_eq_sum_limbs x, limbIndex]
    ring
  rw [mul512, hrows]
  exact ofNat_mul_toNat x y

/-- A partial product of an element with itself does not depend on the order of its limbs. -/
theorem partialProduct_self_comm (x : U256) (i j : LimbIx) : partialProduct x x i j = partialProduct x x j i := by
  rw [partialProduct_eq, partialProduct_eq, Nat.mul_comm (limb x i).toNat, Nat.add_comm (limbIndex i)]

/-- The square doubles each cross product where the schoolbook product adds it twice (R151). -/
theorem sqr512_eq_mul512 (x : U256) : sqr512 x = mul512 x x := by
  refine congrArg (BitVec.ofNat 512) ?_
  simp only [productRow, partialProduct_self_comm x .l1 .l0, partialProduct_self_comm x .l2 .l0,
    partialProduct_self_comm x .l2 .l1, partialProduct_self_comm x .l3 .l0, partialProduct_self_comm x .l3 .l1,
    partialProduct_self_comm x .l3 .l2]
  ring

/-- Settles O42, by `mul512_toNat` and `sqr512_eq_mul512`. -/
theorem productsAreExact : Obligations.ProductsAreExact := by
  intro x y
  exact ⟨mul512_toNat x y, by rw [sqr512_eq_mul512, mul512_toNat]⟩

end Sys2Proof.Machine
end

section
/-! ## The Barrett reduction (42_barrett.md R152)

The error of the quotient estimate, first for any shifts `a` and `b` and any `P`, with `μ = floor(2^(a+b) / P)`. Each of
its three roundings only lowers it. Those of `z >> a` and of `μ` take less than `2^(a+b) + (z >> a) * P` off `z * 2^b`;
where that is at most `P * 2^b` they cost less than one `P`, and so does the last. -/

namespace Sys2Proof.Machine

/-- A right shift rounds down. -/
theorem shiftRight_bounds (n k : ℕ) : (n >>> k) * 2 ^ k ≤ n ∧ n < (n >>> k + 1) * 2 ^ k := by
  rw [Nat.shiftRight_eq_div_pow]
  exact ⟨Nat.div_mul_le_self n _, Nat.lt_mul_of_div_lt (Nat.lt_succ_self _) (Nat.two_pow_pos k)⟩

/-- The estimate of `z / P` by two shifts and a product with `μ`. -/
def shiftEstimate (a b μ z : ℕ) : ℕ := ((z >>> a) * μ) >>> b

/-- The estimate of the engine is the one with the shifts 192 and 316. -/
theorem barrettQuotient_eq_shiftEstimate (z : U512) :
    barrettQuotient z = shiftEstimate 192 316 romMu.toNat z.toNat := rfl

/-- `MU` is the constant of these shifts (10_state.md R31). -/
theorem romMu_toNat : romMu.toNat = 2 ^ (192 + 316) / modulus := by
  obtain ⟨_, hmu, _⟩ := constantsMeetTheirDefinitions
  simpa only [Nat.reduceAdd] using hmu

section
variable {a b P μ z : ℕ}

/-- The estimate is never above `z / P`. -/
theorem shiftEstimate_mul_le (hμ : μ = 2 ^ (a + b) / P) : shiftEstimate a b μ z * P ≤ z := by
  obtain ⟨hz, _⟩ := shiftRight_bounds z a
  obtain ⟨hq, _⟩ := shiftRight_bounds (z >>> a * μ) b
  have hdiv : μ * P ≤ 2 ^ (a + b) := hμ ▸ Nat.div_mul_le_self _ P
  refine Nat.le_of_mul_le_mul_right ?_ (Nat.two_pow_pos b)
  calc shiftEstimate a b μ z * P * 2 ^ b
      = shiftEstimate a b μ z * 2 ^ b * P := by ring
    _ ≤ z >>> a * μ * P := Nat.mul_le_mul_right P hq
    _ = z >>> a * (μ * P) := by ring
    _ ≤ z >>> a * 2 ^ (a + b) := by gcongr
    _ = z >>> a * 2 ^ a * 2 ^ b := by ring
    _ ≤ z * 2 ^ b := by gcongr

/-- Where the first two roundings cost at most one `P`, the estimate is less than 2 below `z / P`. -/
theorem lt_shiftEstimate_add_two_mul (hP : 0 < P) (hμ : μ = 2 ^ (a + b) / P)
    (hcost : 2 ^ (a + b) + z >>> a * P ≤ P * 2 ^ b) : z < (shiftEstimate a b μ z + 2) * P := by
  obtain ⟨_, hz⟩ := shiftRight_bounds z a
  obtain ⟨_, hq⟩ := shiftRight_bounds (z >>> a * μ) b
  have hdiv : 2 ^ (a + b) < (μ + 1) * P := hμ ▸ Nat.lt_mul_of_div_lt (Nat.lt_succ_self _) hP
  refine Nat.lt_of_mul_lt_mul_right (a := 2 ^ b) ?_
  calc z * 2 ^ b
      < (z >>> a + 1) * 2 ^ a * 2 ^ b := by gcongr
    _ = 2 ^ (a + b) + z >>> a * 2 ^ (a + b) := by ring
    _ ≤ 2 ^ (a + b) + z >>> a * ((μ + 1) * P) := by gcongr
    _ = z >>> a * μ * P + (2 ^ (a + b) + z >>> a * P) := by ring
    _ ≤ (shiftEstimate a b μ z + 1) * 2 ^ b * P + P * 2 ^ b :=
      Nat.add_le_add (Nat.mul_le_mul_right P hq.le) hcost
    _ = (shiftEstimate a b μ z + 2) * P * 2 ^ b := by ring

end

theorem barrettQuotient_mul_le (z : U512) : barrettQuotient z * modulus ≤ z.toNat :=
  barrettQuotient_eq_shiftEstimate z ▸ shiftEstimate_mul_le romMu_toNat

/-- Below `P^2` the cost of the first two roundings is small enough. -/
theorem lt_barrettQuotient_add_two_mul {z : U512} (h : z.toNat < modulus ^ 2) :
    z.toNat < (barrettQuotient z + 2) * modulus := by
  have hcost : 2 ^ (192 + 316) + z.toNat >>> 192 * modulus ≤ modulus * 2 ^ 316 := by
    rw [modulus_eq] at h ⊢
    omega
  rw [barrettQuotient_eq_shiftEstimate]
  exact lt_shiftEstimate_add_two_mul (by decide) romMu_toNat hcost

/-- The difference that the low 256 bits must hold is below `2P`. -/
theorem sub_barrettQuotient_mul_lt {z : U512} (h : z.toNat < modulus ^ 2) :
    z.toNat - barrettQuotient z * modulus < 2 * modulus := by
  have hle := barrettQuotient_mul_le z
  have hlt := lt_barrettQuotient_add_two_mul h
  rw [Nat.add_mul] at hlt
  omega

/-- The low 256 bits hold the whole difference, since `2P` is below `2^256`. -/
theorem barrettRemainder_toNat {z : U512} (h : z.toNat < modulus ^ 2) :
    (barrettRemainder z).toNat = z.toNat - barrettQuotient z * modulus := by
  have htwice : 2 * modulus < 2 ^ 256 := by decide
  rw [barrettRemainder, ← Int.ofNat_sub (barrettQuotient_mul_le z), BitVec.ofInt_natCast, BitVec.toNat_ofNat]
  exact Nat.mod_eq_of_lt ((sub_barrettQuotient_mul_lt h).trans htwice)

theorem barrettRemainder_lt {z : U512} (h : z.toNat < modulus ^ 2) : (barrettRemainder z).toNat < 2 * modulus :=
  barrettRemainder_toNat h ▸ sub_barrettQuotient_mul_lt h

/-- One fixup of the remainder gives `z mod P` (R152). -/
theorem barrettReduce_toNat {z : U512} (h : z.toNat < modulus ^ 2) :
    (barrettReduce z).toNat = z.toNat % modulus := by
  have hle := barrettQuotient_mul_le z
  rw [Nat.mul_comm] at hle
  rw [barrettReduce, fixOverflow_toNat_of_lt (barrettRemainder_lt h), barrettRemainder_toNat h, Nat.mul_comm,
    Nat.sub_mul_mod hle]

/-- The estimate is exact or one low. -/
theorem barrettQuotient_eq_or_succ_eq {z : U512} (h : z.toNat < modulus ^ 2) :
    barrettQuotient z = z.toNat / modulus ∨ barrettQuotient z + 1 = z.toNat / modulus := by
  have hpos : 0 < modulus := by decide
  have hle : barrettQuotient z ≤ z.toNat / modulus := (Nat.le_div_iff_mul_le hpos).2 (barrettQuotient_mul_le z)
  have hlt : z.toNat / modulus < barrettQuotient z + 2 :=
    (Nat.div_lt_iff_lt_mul hpos).2 (lt_barrettQuotient_add_two_mul h)
  omega

/-- Settles O43: the bounds of the estimate; it is exact at 0 and one low at `P`. -/
theorem barrettEstimateIsOffByAtMostOne : Obligations.BarrettEstimateIsOffByAtMostOne := by
  refine ⟨fun z h => ?_, ⟨0#512, ?_⟩, ⟨romP.setWidth 512, ?_⟩⟩
  · exact ⟨barrettQuotient_eq_or_succ_eq h, barrettQuotient_mul_le z, barrettRemainder_toNat h,
      barrettRemainder_lt h, barrettReduce_toNat h⟩
  · decide +kernel
  · decide +kernel

end Sys2Proof.Machine
end

section
/-! ## `BMUL` and `BSQR` on canonical operands (42_barrett.md R153, R154, R156) -/

namespace Sys2Proof.Machine

/-- The product of canonical operands is in the range of the reduction. -/
theorem bmul_toNat {x y : U256} (hx : x.toNat < modulus) (hy : y.toNat < modulus) :
    (bmul x y).toNat = x.toNat * y.toNat % modulus := by
  have hrange : (mul512 x y).toNat < modulus ^ 2 := by
    rw [mul512_toNat, Nat.pow_two]
    exact Nat.mul_lt_mul'' hx hy
  rw [bmul, barrettReduce_toNat hrange, mul512_toNat]

/-- Squaring is multiplication by itself. -/
theorem bsqr_eq_bmul (x : U256) : bsqr x = bmul x x := by
  rw [bsqr, bmul, sqr512_eq_mul512]

/-- Settles O44, by `bmul_toNat` and `bsqr_eq_bmul`. -/
theorem barrettCommandsMultiplyModuloP : Obligations.BarrettCommandsMultiplyModuloP := by
  intro s rd rs1 rs2 x y h1 h2 hx hy
  have hsqr : (bsqr x).toNat = x.toNat * x.toNat % modulus := by rw [bsqr_eq_bmul, bmul_toNat hx hx]
  rw [exec, execBmul, exec, execBsqr, h1, h2]
  exact ⟨next_completeReg_of_value s rd (modularTwo_of_lt bmul hx hy) (bmul_toNat hx hy),
    next_completeReg_of_value s rd (modularOne_of_lt bsqr hx) hsqr⟩

end Sys2Proof.Machine
end

section
/-! ## The CIOS accumulator (43_montgomery.md R171, R172)

One iteration adds a multiple of `y` and the multiple of `P` that makes the low limb 0, and divides by `2^64`. Over the
limbs of `x` this is an equation: the accumulator times a power of `2^64` is what it held before, plus the number of
these limbs times `y`, plus a multiple of `P`. -/

namespace Sys2Proof.Machine

/-! ### One iteration -/

theorem ciosFactor_lt (t : ℕ) : ciosFactor t < 2 ^ 64 := Nat.mod_lt _ (by decide)

/-- The factor of the fold, without its reductions to one limb. -/
theorem ciosFactor_modEq (t : ℕ) : ciosFactor t ≡ t * pi0 [MOD 2 ^ 64] :=
  (Nat.mod_modEq _ _).trans ((Nat.mod_modEq t _).mul_right _)

/-- `P * PI0 = -1` modulo `2^64` (10_state.md R32). -/
theorem modulus_mul_pi0_add_one_modEq : modulus * pi0 + 1 ≡ 0 [MOD 2 ^ 64] := by
  obtain ⟨_, _, _, hlow, _⟩ := constantsMeetTheirDefinitions
  have hlimb : (limb romP .l0).toNat ≡ modulus [MOD 2 ^ 64] := by
    rw [limb_toNat, limbIndex, Nat.mul_zero, Nat.pow_zero, Nat.div_one]
    exact Nat.mod_modEq _ _
  exact ((hlimb.mul_right pi0).add_right 1).symm.trans hlow

/-- The factor of the fold makes the low limb 0. -/
theorem add_ciosFactor_mul_modEq_zero (t : ℕ) : t + ciosFactor t * modulus ≡ 0 [MOD 2 ^ 64] :=
  calc t + ciosFactor t * modulus
      ≡ t + t * pi0 * modulus [MOD 2 ^ 64] := ((ciosFactor_modEq t).mul_right _).add_left _
    _ = t * (modulus * pi0 + 1) := by ring
    _ ≡ t * 0 [MOD 2 ^ 64] := modulus_mul_pi0_add_one_modEq.mul_left _

/-- The shift of the fold loses nothing. -/
theorem ciosFold_mul (t : ℕ) : ciosFold t * 2 ^ 64 = t + ciosFactor t * modulus := by
  rw [ciosFold, Nat.shiftRight_eq_div_pow]
  exact Nat.div_mul_cancel (Nat.dvd_of_mod_eq_zero (add_ciosFactor_mul_modEq_zero t))

section
variable {y : U256} {t : ℕ}

theorem ciosMac_lt (hy : y.toNat < modulus) (ht : t < 2 * modulus) (xi : U64) :
    ciosMac y xi t < 2 * modulus + (2 ^ 64 - 1) * modulus :=
  Nat.add_lt_add_of_lt_of_le ht (Nat.mul_le_mul (Nat.le_pred_of_lt xi.isLt) hy.le)

theorem ciosMac_add_fold_lt (hy : y.toNat < modulus) (ht : t < 2 * modulus) (xi : U64) :
    ciosMac y xi t + ciosFactor (ciosMac y xi t) * modulus < 2 * modulus + 2 * (2 ^ 64 - 1) * modulus := by
  have hmac := ciosMac_lt hy ht xi
  have hfold : ciosFactor (ciosMac y xi t) * modulus ≤ (2 ^ 64 - 1) * modulus :=
    Nat.mul_le_mul_right _ (Nat.le_pred_of_lt (ciosFactor_lt _))
  omega

/-- The bound inside an iteration is below five limbs, since `P` is below `2^254`. -/
theorem cios_bound_lt_two_pow : 2 * modulus + 2 * (2 ^ 64 - 1) * modulus < 2 ^ 319 := by
  have hmodulus : modulus < 2 ^ 254 := by decide
  calc 2 * modulus + 2 * (2 ^ 64 - 1) * modulus
      = 2 ^ 65 * modulus := by ring
    _ < 2 ^ 65 * 2 ^ 254 := by gcongr
    _ = 2 ^ 319 := by rw [show 319 = 65 + 254 from rfl, Nat.pow_add]

/-- The bound inside an iteration is `2^64` times the bound after it. -/
theorem ciosStep_lt (hy : y.toNat < modulus) (ht : t < 2 * modulus) (xi : U64) : ciosStep y t xi < 2 * modulus := by
  have hexact := ciosFold_mul (ciosMac y xi t)
  have hbound := ciosMac_add_fold_lt hy ht xi
  rw [ciosStep]
  omega

end

/-! ### The loop -/

/-- Every iteration keeps the accumulator below `2P`. -/
theorem foldl_ciosStep_lt {y : U256} (hy : y.toNat < modulus) (xs : List U64) {t : ℕ} (ht : t < 2 * modulus) :
    xs.foldl (ciosStep y) t < 2 * modulus := by
  induction xs generalizing t with
  | nil => exact ht
  | cons xi xs ih => exact ih (ciosStep_lt hy ht xi)

/-- The iterations over the limbs `xs` multiply their number by `y` and divide by a power of `2^64`, up to a multiple
of `P`. -/
theorem foldl_ciosStep_mul (y : U256) (xs : List U64) (t : ℕ) :
    ∃ k, xs.foldl (ciosStep y) t * (2 ^ 64) ^ xs.length =
      t + Nat.ofDigits (2 ^ 64) (xs.map BitVec.toNat) * y.toNat + k * modulus := by
  induction xs generalizing t with
  | nil => exact ⟨0, by simp⟩
  | cons xi xs ih =>
    obtain ⟨k, hk⟩ := ih (ciosStep y t xi)
    have hstep : ciosStep y t xi * 2 ^ 64 = t + xi.toNat * y.toNat + ciosFactor (ciosMac y xi t) * modulus :=
      ciosFold_mul (ciosMac y xi t)
    refine ⟨ciosFactor (ciosMac y xi t) + 2 ^ 64 * k, ?_⟩
    rw [List.foldl_cons, List.length_cons, pow_succ, ← Nat.mul_assoc, hk, List.map_cons, Nat.ofDigits_cons]
    linear_combination hstep

theorem ciosLoop_lt (x : U256) {y : U256} (hy : y.toNat < modulus) : ciosLoop x y < 2 * modulus :=
  foldl_ciosStep_lt hy _ (by decide)

/-- The four iterations take in all of `x` and divide by `2^256` (R172). -/
theorem ciosLoop_mul (x y : U256) : ∃ k, ciosLoop x y * 2 ^ 256 = x.toNat * y.toNat + k * modulus := by
  have hdigits : Nat.ofDigits (2 ^ 64) ([limb x .l0, limb x .l1, limb x .l2, limb x .l3].map BitVec.toNat)
      = x.toNat := by
    simp only [List.map_cons, List.map_nil, Nat.ofDigits_cons, Nat.ofDigits_nil, toNat_eq_sum_limbs x]
    ring
  obtain ⟨k, hk⟩ := foldl_ciosStep_mul y [limb x .l0, limb x .l1, limb x .l2, limb x .l3] 0
  rw [hdigits, Nat.zero_add, ← Nat.pow_mul] at hk
  exact ⟨k, hk⟩

/-- Settles O45, by the lemmas on one iteration and on the loop. -/
theorem ciosAccumulatorFitsFiveLimbs : Obligations.CiosAccumulatorFitsFiveLimbs := by
  refine ⟨fun y xi t hy ht => ?_, fun x y hy => ⟨ciosLoop_lt x hy, ciosLoop_mul x y⟩⟩
  have hbound := ciosMac_add_fold_lt hy ht xi
  exact ⟨ciosMac_lt hy ht xi, hbound, hbound.trans cios_bound_lt_two_pow, add_ciosFactor_mul_modEq_zero _,
    ciosStep_lt hy ht xi⟩

end Sys2Proof.Machine
end

section
/-! ## The Montgomery product as arithmetic modulo `P` (43_montgomery.md R170, R177)

An element is taken to its residue in `ZMod P`; a canonical element is determined by it. There the functions of the
engines are the ring's operations, with `2^256` and `RINV` inverse to each other. -/

namespace Sys2Proof.Machine

/-! ### Residues -/

/-- The residue modulo `P` that an element stands for. -/
def residue (x : U256) : ZMod modulus := (x.toNat : ZMod modulus)

/-- A canonical element has the residue of `n` when it is `n mod P`. -/
theorem residue_eq_natCast_iff {x : U256} {n : ℕ} (hx : x.toNat < modulus) :
    residue x = (n : ZMod modulus) ↔ x.toNat = n % modulus := by
  rw [residue, ZMod.natCast_eq_natCast_iff', Nat.mod_eq_of_lt hx]

/-- Canonical elements with the same residue are equal. -/
theorem eq_of_residue_eq {x y : U256} (hx : x.toNat < modulus) (hy : y.toNat < modulus)
    (h : residue x = residue y) : x = y := by
  apply BitVec.eq_of_toNat_eq
  rw [(residue_eq_natCast_iff hx).1 h, Nat.mod_eq_of_lt hy]

theorem lt_modulus_of_eq_mod {m n : ℕ} (h : m = n % modulus) : m < modulus :=
  h ▸ Nat.mod_lt n (by decide)

/-- A result that its rule gives modulo `P` has the residue of the rule's number. -/
theorem residue_of_eq_mod {x : U256} {n : ℕ} (h : x.toNat = n % modulus) : residue x = (n : ZMod modulus) :=
  (residue_eq_natCast_iff (lt_modulus_of_eq_mod h)).2 h

section
variable {x y : U256}

theorem fieldAdd_lt (hx : x.toNat < modulus) (hy : y.toNat < modulus) : (fieldAdd x y).toNat < modulus :=
  lt_modulus_of_eq_mod (fieldAdd_toNat hx hy)

theorem bmul_lt (hx : x.toNat < modulus) (hy : y.toNat < modulus) : (bmul x y).toNat < modulus :=
  lt_modulus_of_eq_mod (bmul_toNat hx hy)

theorem residue_fieldAdd (hx : x.toNat < modulus) (hy : y.toNat < modulus) :
    residue (fieldAdd x y) = residue x + residue y :=
  (residue_of_eq_mod (fieldAdd_toNat hx hy)).trans (Nat.cast_add _ _)

theorem residue_bmul (hx : x.toNat < modulus) (hy : y.toNat < modulus) :
    residue (bmul x y) = residue x * residue y :=
  (residue_of_eq_mod (bmul_toNat hx hy)).trans (Nat.cast_mul _ _)

end

/-! ### The radix and its inverse -/

/-- `R = 2^256` modulo `P` (R170). -/
def radix : ZMod modulus := ((2 ^ 256 : ℕ) : ZMod modulus)

/-- `RINV` modulo `P` (10_state.md R35). -/
def radixInv : ZMod modulus := (rInv : ZMod modulus)

theorem radix_mul_radixInv : radix * radixInv = 1 := by
  obtain ⟨_, _, _, _, _, hinv, _⟩ := constantsMeetTheirDefinitions
  have hone : 1 % modulus = 1 := by decide
  rw [radix, radixInv, ← Nat.cast_mul, ← Nat.cast_one, ZMod.natCast_eq_natCast_iff', hinv, hone]

theorem romR2_toNat : romR2.toNat = 2 ^ 512 % modulus := by
  obtain ⟨_, _, _, _, hr2, _⟩ := constantsMeetTheirDefinitions
  exact hr2

theorem romR2_lt : romR2.toNat < modulus := lt_modulus_of_eq_mod romR2_toNat

theorem romOne_lt : romOne.toNat < modulus := by decide

theorem residue_romR2 : residue romR2 = radix * radix := by
  rw [residue_of_eq_mod romR2_toNat, radix, ← Nat.cast_mul, ← Nat.pow_add]

theorem residue_romOne : residue romOne = 1 := Nat.cast_one

/-! ### The functions of the Montgomery engine -/

section
variable (x : U256) {y : U256}

/-- The fixup after the loop makes the accumulator canonical; its low 256 bits are all of it. -/
theorem montMul_toNat_eq_ciosLoop_mod (hy : y.toNat < modulus) :
    (montMul x y).toNat = ciosLoop x y % modulus := by
  have hbound := ciosLoop_lt x hy
  have htwice : 2 * modulus < 2 ^ 256 := by decide
  have hlow : (BitVec.ofNat 256 (ciosLoop x y)).toNat = ciosLoop x y :=
    BitVec.toNat_ofNat .. ▸ Nat.mod_eq_of_lt (hbound.trans htwice)
  rw [montMul, fixOverflow_toNat_of_lt (hlow.symm ▸ hbound), hlow]

theorem montMul_lt (hy : y.toNat < modulus) : (montMul x y).toNat < modulus :=
  lt_modulus_of_eq_mod (montMul_toNat_eq_ciosLoop_mod x hy)

/-- The loop's equation modulo `P`: the product times the radix is `x * y`. -/
theorem residue_montMul_mul_radix (hy : y.toNat < modulus) :
    residue (montMul x y) * radix = residue x * residue y := by
  obtain ⟨k, hk⟩ := ciosLoop_mul x y
  rw [residue_of_eq_mod (montMul_toNat_eq_ciosLoop_mod x hy), radix, ← Nat.cast_mul, hk, residue, residue,
    Nat.cast_add, Nat.cast_mul, Nat.cast_mul, ZMod.natCast_self, mul_zero, add_zero]

theorem residue_montMul (hy : y.toNat < modulus) :
    residue (montMul x y) = residue x * residue y * radixInv := by
  linear_combination radixInv * residue_montMul_mul_radix x hy - residue (montMul x y) * radix_mul_radixInv

/-- The Montgomery product by its formula (R177). -/
theorem montMul_toNat (hy : y.toNat < modulus) :
    (montMul x y).toNat = x.toNat * y.toNat * rInv % modulus := by
  rw [← residue_eq_natCast_iff (montMul_lt x hy), residue_montMul x hy, Nat.cast_mul, Nat.cast_mul]
  rfl

theorem toMont_lt : (toMont x).toNat < modulus := montMul_lt x romR2_lt

theorem fromMont_lt : (fromMont x).toNat < modulus := montMul_lt x romOne_lt

/-- The image in the Montgomery domain (R170, R175). -/
theorem residue_toMont : residue (toMont x) = residue x * radix := by
  rw [toMont, residue_montMul x romR2_lt, residue_romR2]
  linear_combination residue x * radix * radix_mul_radixInv

/-- The inverse of the image (R170, R176). -/
theorem residue_fromMont : residue (fromMont x) = residue x * radixInv := by
  rw [fromMont, residue_montMul x romOne_lt, residue_romOne, mul_one]

theorem toMont_toNat : (toMont x).toNat = x.toNat * 2 ^ 256 % modulus := by
  rw [← residue_eq_natCast_iff (toMont_lt x), residue_toMont, Nat.cast_mul]
  rfl

theorem fromMont_toNat : (fromMont x).toNat = x.toNat * rInv % modulus := by
  rw [← residue_eq_natCast_iff (fromMont_lt x), residue_fromMont, Nat.cast_mul]
  rfl

end

end Sys2Proof.Machine
end

section
/-! ## `MMUL`, `MSQR`, `TOMONT` and `FROMMONT` on canonical operands, and their laws (43_montgomery.md R173 to R178) -/

namespace Sys2Proof.Machine

/-- Settles O46, by `montMul_toNat`. -/
theorem montgomeryCommandsMultiplyByRInverse : Obligations.MontgomeryCommandsMultiplyByRInverse := by
  intro s rd rs1 rs2 x y h1 h2 hx hy
  rw [exec, execMmul, exec, execMsqr, h1, h2]
  exact ⟨next_completeReg_of_value s rd (modularTwo_of_lt montMul hx hy) (montMul_toNat x hy),
    next_completeReg_of_value s rd (modularOne_of_lt montSqr hx) (montMul_toNat x hx)⟩

/-- Settles O47, by `toMont_toNat` and `fromMont_toNat`. -/
theorem domainTransforms : Obligations.DomainTransforms := by
  intro s rd rs x h hx
  rw [exec, execTomont, exec, execFrommont, h]
  exact ⟨next_completeReg_of_value s rd (modularOne_of_lt toMont hx) (toMont_toNat x),
    next_completeReg_of_value s rd (modularOne_of_lt fromMont hx) (fromMont_toNat x)⟩

/-! ### The laws of R178: both sides have the same residue -/

section
variable {a b : U256}

theorem fromMont_toMont (ha : a.toNat < modulus) : fromMont (toMont a) = a := by
  apply eq_of_residue_eq (fromMont_lt _) ha
  rw [residue_fromMont, residue_toMont, mul_assoc, radix_mul_radixInv, mul_one]

theorem toMont_fromMont (ha : a.toNat < modulus) : toMont (fromMont a) = a := by
  apply eq_of_residue_eq (toMont_lt _) ha
  rw [residue_toMont, residue_fromMont, mul_assoc, mul_comm radixInv, radix_mul_radixInv, mul_one]

/-- One operand in the domain and one outside: the factor of the image and that of the product cancel. -/
theorem montMul_toMont_left (ha : a.toNat < modulus) (hb : b.toNat < modulus) : montMul (toMont a) b = bmul a b := by
  apply eq_of_residue_eq (montMul_lt _ hb) (bmul_lt ha hb)
  rw [residue_montMul _ hb, residue_toMont, residue_bmul ha hb]
  linear_combination residue a * residue b * radix_mul_radixInv

/-- The product of images is the image of the product. -/
theorem montMul_toMont_toMont (ha : a.toNat < modulus) (hb : b.toNat < modulus) :
    montMul (toMont a) (toMont b) = toMont (bmul a b) := by
  apply eq_of_residue_eq (montMul_lt _ (toMont_lt b)) (toMont_lt _)
  rw [residue_montMul _ (toMont_lt b), residue_toMont, residue_toMont, residue_toMont, residue_bmul ha hb]
  linear_combination residue a * residue b * radix * radix_mul_radixInv

theorem montMul_comm (ha : a.toNat < modulus) (hb : b.toNat < modulus) : montMul a b = montMul b a := by
  apply eq_of_residue_eq (montMul_lt a hb) (montMul_lt b ha)
  rw [residue_montMul a hb, residue_montMul b ha, mul_comm (residue a)]

theorem fieldAdd_toMont (ha : a.toNat < modulus) (hb : b.toNat < modulus) :
    fieldAdd (toMont a) (toMont b) = toMont (fieldAdd a b) := by
  apply eq_of_residue_eq (fieldAdd_lt (toMont_lt a) (toMont_lt b)) (toMont_lt _)
  rw [residue_fieldAdd (toMont_lt a) (toMont_lt b), residue_toMont, residue_toMont, residue_toMont,
    residue_fieldAdd ha hb, add_mul]

end

/-- Settles O48; the agreement of the two multipliers is the homomorphism followed by a round trip. -/
theorem montgomeryLaws : Obligations.MontgomeryLaws := by
  intro a b ha hb
  have hhom := montMul_toMont_toMont ha hb
  have hagree : fromMont (montMul (toMont a) (toMont b)) = bmul a b := by
    rw [hhom, fromMont_toMont (bmul_lt ha hb)]
  exact ⟨fromMont_toMont ha, toMont_fromMont ha, hhom, hagree, montMul_toMont_left ha hb, montMul_comm ha hb,
    fieldAdd_toMont ha hb⟩

end Sys2Proof.Machine
end

section
/-! ## Square-and-multiply on the Barrett engine (44_exp_inv.md R190)

The bits of the exponent are taken in from the top. After the bits `n-1` downto 0 the residue of the accumulator is
that of `acc ^ 2^n * b ^ (e mod 2^n)`. -/

namespace Sys2Proof.Machine

theorem bsqr_lt {x : U256} (hx : x.toNat < modulus) : (bsqr x).toNat < modulus :=
  bsqr_eq_bmul x ▸ bmul_lt hx hx

theorem residue_bsqr {x : U256} (hx : x.toNat < modulus) : residue (bsqr x) = residue x ^ 2 := by
  rw [bsqr_eq_bmul, residue_bmul hx hx, sq]

section
variable {b acc : U256} (hb : b.toNat < modulus) (ha : acc.toNat < modulus)
include hb ha

theorem powStep_lt (e : U256) (i : ℕ) : (powStep b e i acc).toNat < modulus := by
  rw [powStep]
  split
  · exact bmul_lt (bsqr_lt ha) hb
  · exact bsqr_lt ha

theorem residue_powStep (e : U256) (i : ℕ) :
    residue (powStep b e i acc) = residue acc ^ 2 * residue b ^ (e.getLsbD i).toNat := by
  rw [powStep]
  split
  next hbit => rw [residue_bmul (bsqr_lt ha) hb, residue_bsqr ha, hbit, Bool.toNat_true, pow_one]
  next hbit => rw [residue_bsqr ha, Bool.eq_false_iff.2 hbit, Bool.toNat_false, pow_zero, mul_one]

end

theorem powLoop_lt {b : U256} (hb : b.toNat < modulus) (e : U256) (n : ℕ) {acc : U256} (ha : acc.toNat < modulus) :
    (powLoop b e n acc).toNat < modulus := by
  induction n generalizing acc with
  | zero => exact ha
  | succ n ih => exact ih (powStep_lt hb ha e n)

/-- The loop over the low `n` bits of the exponent. -/
theorem residue_powLoop {b : U256} (hb : b.toNat < modulus) (e : U256) (n : ℕ) {acc : U256}
    (ha : acc.toNat < modulus) :
    residue (powLoop b e n acc) = residue acc ^ 2 ^ n * residue b ^ (e.toNat % 2 ^ n) := by
  induction n generalizing acc with
  | zero => rw [powLoop, pow_zero, pow_one, Nat.mod_one, pow_zero, mul_one]
  | succ n ih =>
    calc residue (powLoop b e (n + 1) acc)
        = residue (powStep b e n acc) ^ 2 ^ n * residue b ^ (e.toNat % 2 ^ n) := ih (powStep_lt hb ha e n)
      _ = (residue acc ^ 2) ^ 2 ^ n * (residue b ^ (e.getLsbD n).toNat) ^ 2 ^ n * residue b ^ (e.toNat % 2 ^ n) := by
        rw [residue_powStep hb ha, mul_pow]
      _ = residue acc ^ 2 ^ (n + 1) * residue b ^ (e.toNat % 2 ^ n + 2 ^ n * (e.getLsbD n).toNat) := by
        rw [pow_add (residue b), ← pow_mul, ← pow_mul, ← pow_succ']
        ring
      _ = residue acc ^ 2 ^ (n + 1) * residue b ^ (e.toNat % 2 ^ (n + 1)) := by
        rw [BitVec.getLsbD, Nat.toNat_testBit, ← Nat.mod_pow_succ]

/-- No bit of the exponent is above the significant ones. -/
theorem toNat_lt_two_pow_significantBits (e : U256) : e.toNat < 2 ^ significantBits e := by
  rw [significantBits]
  split
  next hzero => rw [hzero]; decide
  next => exact Nat.lt_log2_self

theorem powBarrett_lt {b : U256} (hb : b.toNat < modulus) (e : U256) : (powBarrett b e).toNat < modulus :=
  powLoop_lt hb e _ romOne_lt

theorem residue_powBarrett {b : U256} (hb : b.toNat < modulus) (e : U256) :
    residue (powBarrett b e) = residue b ^ e.toNat := by
  rw [powBarrett, residue_powLoop hb e _ romOne_lt, residue_romOne, one_pow, one_mul,
    Nat.mod_eq_of_lt (toNat_lt_two_pow_significantBits e)]

/-- The value of R190, for every exponent. -/
theorem powBarrett_toNat {b : U256} (hb : b.toNat < modulus) (e : U256) :
    (powBarrett b e).toNat = b.toNat ^ e.toNat % modulus := by
  rw [← residue_eq_natCast_iff (powBarrett_lt hb e), residue_powBarrett hb, Nat.cast_pow, residue]

/-- Only the base has to be canonical (R191). -/
theorem modularBase_of_lt (f : U256 → U256 → U256) {b : U256} (e : U256) (hb : b.toNat < modulus) :
    modularBase f (some b) (some e) = .value (f b e) := by
  rw [modularBase, canonical_of_lt hb, if_pos rfl]

/-- Settles O49, by `powBarrett_toNat`. -/
theorem powRaisesToThePower : Obligations.PowRaisesToThePower := by
  intro s rd rs1 rs2 b e h1 h2 hb
  rw [exec, execPow, h1, h2]
  exact next_completeReg_of_value s rd (modularBase_of_lt powBarrett e hb) (powBarrett_toNat hb e)

end Sys2Proof.Machine
end

section
/-! ## The window chain of the inverter (44_exp_inv.md R196, R197)

Every intermediate of the chain is the Montgomery image of a power of the operand, and a Montgomery product adds the
exponents. So the chain computes with exponents: the cache holds 1 to 15, four squarings and a product by a cache entry
append a hexadecimal digit, and the 64 digits are those of `P - 2`. -/

namespace Sys2Proof.Machine

/-- `y` is canonical and the Montgomery image of `ξ^n`. -/
structure IsMontPow (ξ : ZMod modulus) (n : ℕ) (y : U256) : Prop where
  lt : y.toNat < modulus
  residue_eq : residue y = ξ ^ n * radix

theorem isMontPow_toMont (x : U256) : IsMontPow (residue x) 1 (toMont x) :=
  ⟨toMont_lt x, by rw [residue_toMont, pow_one]⟩

section
variable {ξ : ZMod modulus} {m n : ℕ} {y z : U256}

/-- A Montgomery product adds the exponents. -/
theorem IsMontPow.montMul (hy : IsMontPow ξ m y) (hz : IsMontPow ξ n z) : IsMontPow ξ (m + n) (montMul y z) := by
  refine ⟨montMul_lt y hz.lt, ?_⟩
  rw [residue_montMul y hz.lt, hy.residue_eq, hz.residue_eq, pow_add]
  linear_combination ξ ^ m * ξ ^ n * radix * radix_mul_radixInv

/-- A Montgomery square doubles the exponent. -/
theorem IsMontPow.montSqr (hy : IsMontPow ξ n y) : IsMontPow ξ (2 * n) (montSqr y) :=
  two_mul n ▸ hy.montMul hy

/-- The conversion out of the domain leaves the power. -/
theorem IsMontPow.residue_fromMont (hy : IsMontPow ξ n y) : residue (fromMont y) = ξ ^ n := by
  rw [Machine.residue_fromMont, hy.residue_eq, mul_assoc, radix_mul_radixInv, mul_one]

end

/-! ### The cache -/

/-- Each entry of the cache after `prev` has one more in its exponent. -/
theorem isMontPow_cacheFrom {ξ : ZMod modulus} {c1 : U256} (h1 : IsMontPow ξ 1 c1) (n : ℕ) {k : ℕ} {prev : U256}
    (hprev : IsMontPow ξ k prev) {i : ℕ} (hi : i < n) :
    IsMontPow ξ (k + 1 + i) ((cacheFrom c1 n prev).getD i 0#256) := by
  induction n generalizing k prev i with
  | zero => exact absurd hi (Nat.not_lt_zero i)
  | succ n ih =>
    cases i with
    | zero => exact hprev.montMul h1
    | succ i =>
      rw [cacheFrom, List.getD_cons_succ, Nat.add_succ, ← Nat.succ_add]
      exact ih (hprev.montMul h1) (Nat.lt_of_succ_lt_succ hi)

/-- The entries from the third on are the products. -/
theorem cacheAt_add_three (xm : U256) (k : ℕ) :
    cacheAt (invCache xm) (k + 3) = (cacheFrom xm 13 (montSqr xm)).getD k 0#256 := by
  rw [cacheAt, Nat.add_succ_sub_one, invCache, List.getD_cons_succ, List.getD_cons_succ]

/-- `cache[k]` has the exponent `k` (R197). -/
theorem isMontPow_cacheAt {ξ : ZMod modulus} {xm : U256} (hx : IsMontPow ξ 1 xm) {k : ℕ} (hpos : k ≠ 0)
    (hk : k ≤ 15) : IsMontPow ξ k (cacheAt (invCache xm) k) := by
  obtain _ | _ | _ | k := k
  · exact absurd rfl hpos
  · exact hx
  · exact hx.montSqr
  · have hentry := isMontPow_cacheFrom hx 13 hx.montSqr (i := k) (by omega)
    rwa [← cacheAt_add_three, show 2 * 1 + 1 + k = k + 3 from Nat.add_comm 3 k] at hentry

/-! ### The digits -/

/-- The number `m` with the hexadecimal digit `d` appended. -/
def appendDigit (m d : ℕ) : ℕ := 16 * m + d

/-- A step of the chain appends its digit to the exponent. -/
theorem isMontPow_invStep {ξ : ZMod modulus} {xm : U256} (hx : IsMontPow ξ 1 xm) {m : ℕ} {acc : U256}
    (hacc : IsMontPow ξ m acc) {d : ℕ} (hd : d ≤ 15) :
    IsMontPow ξ (appendDigit m d) (invStep (invCache xm) acc d) := by
  have hsquares : IsMontPow ξ (16 * m) (montSqr (montSqr (montSqr (montSqr acc)))) := by
    have hfour := hacc.montSqr.montSqr.montSqr.montSqr
    rwa [show 2 * (2 * (2 * (2 * m))) = 16 * m by ring] at hfour
  rw [invStep, appendDigit]
  split
  next hzero => rwa [hzero]
  next hpos => exact hsquares.montMul (isMontPow_cacheAt hx hpos hd)

theorem isMontPow_foldl_invStep {ξ : ZMod modulus} {xm : U256} (hx : IsMontPow ξ 1 xm) {ds : List ℕ}
    (hds : ∀ d ∈ ds, d ≤ 15) {m : ℕ} {acc : U256} (hacc : IsMontPow ξ m acc) :
    IsMontPow ξ (ds.foldl appendDigit m) (ds.foldl (invStep (invCache xm)) acc) := by
  induction ds generalizing m acc with
  | nil => exact hacc
  | cons d ds ih =>
    obtain ⟨hd, hds⟩ := List.forall_mem_cons.1 hds
    exact ih hds (isMontPow_invStep hx hacc hd)

theorem invDigits_le : ∀ d ∈ invDigits.tail, d ≤ 15 := by decide

/-- The digits are those of `P - 2` (R197). -/
theorem foldl_appendDigit_invDigits : invDigits.tail.foldl appendDigit (invDigits.headD 0) = modulus - 2 := by
  decide +kernel

/-- The chain raises its operand to the power `P - 2`. -/
theorem isMontPow_invChain {ξ : ZMod modulus} {xm : U256} (hx : IsMontPow ξ 1 xm) :
    IsMontPow ξ (modulus - 2) (invChain xm) := by
  rw [← foldl_appendDigit_invDigits]
  exact isMontPow_foldl_invStep hx invDigits_le (isMontPow_cacheAt hx (by decide) (by decide))

/-! ### The inverter -/

/-- The chain between the two conversions (R197). -/
theorem invFermat_eq (x : U256) : invFermat x = fromMont (invChain (toMont x)) := rfl

theorem invFermat_lt (x : U256) : (invFermat x).toNat < modulus := fromMont_lt _

theorem residue_invFermat (x : U256) : residue (invFermat x) = residue x ^ (modulus - 2) :=
  (isMontPow_invChain (isMontPow_toMont x)).residue_fromMont

/-- The architectural definition of the inverter (R196). -/
theorem invFermat_toNat (x : U256) : (invFermat x).toNat = x.toNat ^ (modulus - 2) % modulus := by
  rw [← residue_eq_natCast_iff (invFermat_lt x), residue_invFermat, Nat.cast_pow, residue]

/-- Settles O50, by `invFermat_toNat`. -/
theorem invComputesTheFermatPower : Obligations.InvComputesTheFermatPower := by
  intro s rd rs x h hx
  rw [exec, execInv, h]
  exact next_completeReg_of_value s rd (modularOne_of_lt invFermat hx) (invFermat_toNat x)

end Sys2Proof.Machine
end

section
/-! ## The laws of the inverse (44_exp_inv.md R191, R196, R198, R200)

`P` is prime, so the residues are a field, and by Fermat's little theorem the power `P - 2` is its inverse, with
`0⁻¹ = 0`. -/

namespace Sys2Proof.Machine

theorem residue_zero : residue 0#256 = 0 := Nat.cast_zero

theorem residue_ne_zero {x : U256} (hx : x.toNat < modulus) (h : x ≠ 0#256) : residue x ≠ 0 := fun hzero =>
  h (eq_of_residue_eq hx (by decide) (hzero.trans residue_zero.symm))

/-- Fermat's little theorem for the modulus. -/
theorem pow_modulus_sub_one {ξ : ZMod modulus} (h : ξ ≠ 0) : ξ ^ (modulus - 1) = 1 :=
  have : Fact modulus.Prime := ⟨modulusIsPrime⟩
  ZMod.pow_card_sub_one_eq_one h

theorem mul_pow_modulus_sub_two {ξ : ZMod modulus} (h : ξ ≠ 0) : ξ * ξ ^ (modulus - 2) = 1 := by
  have hexp : modulus - 1 = modulus - 2 + 1 := by decide
  rw [← pow_succ', ← hexp, pow_modulus_sub_one h]

/-- The power `P - 2` is the inverse of the field, that of 0 included. -/
theorem pow_modulus_sub_two (ξ : ZMod modulus) : ξ ^ (modulus - 2) = ξ⁻¹ := by
  have : Fact modulus.Prime := ⟨modulusIsPrime⟩
  by_cases h : ξ = 0
  · have hexp : modulus - 2 ≠ 0 := by decide
    rw [h, zero_pow hexp, inv_zero]
  · exact eq_inv_of_mul_eq_one_right (mul_pow_modulus_sub_two h)

theorem residue_invFermat_eq_inv (x : U256) : residue (invFermat x) = (residue x)⁻¹ :=
  (residue_invFermat x).trans (pow_modulus_sub_two _)

theorem invFermat_zero : invFermat 0#256 = 0#256 := by
  apply eq_of_residue_eq (invFermat_lt _) (by decide)
  rw [residue_invFermat_eq_inv, residue_zero, ZMod.inv_zero]

section
variable {x : U256} (hx : x.toNat < modulus)
include hx

theorem bmul_invFermat (h : x ≠ 0#256) : bmul x (invFermat x) = 1#256 := by
  apply eq_of_residue_eq (bmul_lt hx (invFermat_lt x)) romOne_lt
  rw [residue_bmul hx (invFermat_lt x), residue_invFermat, mul_pow_modulus_sub_two (residue_ne_zero hx h)]
  exact residue_romOne.symm

/-- The Fermat check of R191. -/
theorem powBarrett_romP_sub_one (h : x ≠ 0#256) : powBarrett x (romP - 1#256) = 1#256 := by
  have hexp : (romP - 1#256).toNat = modulus - 1 := by decide
  apply eq_of_residue_eq (powBarrett_lt hx _) romOne_lt
  rw [residue_powBarrett hx, hexp, pow_modulus_sub_one (residue_ne_zero hx h)]
  exact residue_romOne.symm

theorem invFermat_invFermat : invFermat (invFermat x) = x := by
  have : Fact modulus.Prime := ⟨modulusIsPrime⟩
  apply eq_of_residue_eq (invFermat_lt _) hx
  rw [residue_invFermat_eq_inv, residue_invFermat_eq_inv, inv_inv]

/-- The chain and the generic power agree (R200). -/
theorem invFermat_eq_powBarrett : invFermat x = powBarrett x (romP - 2#256) := by
  have hexp : (romP - 2#256).toNat = modulus - 2 := by decide
  apply eq_of_residue_eq (invFermat_lt x) (powBarrett_lt hx _)
  rw [residue_invFermat, residue_powBarrett hx, hexp]

end

/-- Settles O51, from its laws one by one. -/
theorem inverseLaws : Obligations.InverseLaws := fun _ hx =>
  ⟨fun h => ⟨bmul_invFermat hx h, powBarrett_romP_sub_one hx h⟩, invFermat_zero, invFermat_invFermat hx,
    invFermat_eq_powBarrett hx⟩

end Sys2Proof.Machine
end

section
/-! ## The sampler and the draw step of `RAND` (45_sampling.md R210 to R215)

Four fixups take off up to four times `P`, so a raw value below `5P` comes down to its remainder, and one at `5P` or
more stays out of range. -/

namespace Sys2Proof.Machine

/-! ### The sampler -/

/-- The four passes are four fixups: each takes off one `P`, as long as there is one. -/
theorem samplePasses_toNat (raw : U256) :
    (samplePasses raw).toNat = raw.toNat - min 4 (raw.toNat / modulus) * modulus :=
  fixOverflow_iterate_toNat raw 4

/-- Below `5P` the passes leave the remainder. -/
theorem samplePasses_toNat_of_lt {raw : U256} (h : raw.toNat < 5 * modulus) :
    (samplePasses raw).toNat = raw.toNat % modulus := by
  rw [samplePasses_toNat]
  rw [modulus_eq] at h ⊢
  omega

/-- From `5P` on the passes end at `P` or more. -/
theorem le_samplePasses_toNat {raw : U256} (h : 5 * modulus ≤ raw.toNat) : modulus ≤ (samplePasses raw).toNat := by
  rw [samplePasses_toNat]
  rw [modulus_eq] at h ⊢
  omega

theorem sample_of_lt {raw : U256} (h : raw.toNat < 5 * modulus) :
    sample raw = some (BitVec.ofNat 256 (raw.toNat % modulus)) := by
  have hpasses := samplePasses_toNat_of_lt h
  have hlt : (samplePasses raw).toNat < modulus := hpasses ▸ Nat.mod_lt _ (by decide)
  have hge : ¬ geP (samplePasses raw) = true := by
    rw [geP, decide_eq_true_iff]
    exact Nat.not_le.2 hlt
  rw [sample, if_neg hge, ← hpasses, ofNat_toNat_eq]

theorem sample_of_le {raw : U256} (h : 5 * modulus ≤ raw.toNat) : sample raw = none :=
  if_pos (decide_eq_true (le_samplePasses_toNat h))

/-- What the sampler accepts, and the value it accepts (R212). -/
theorem sample_eq_some_iff {raw v : U256} :
    sample raw = some v ↔ raw.toNat < 5 * modulus ∧ raw.toNat % modulus = v.toNat := by
  by_cases h : raw.toNat < 5 * modulus
  · have hmod : raw.toNat % modulus < 2 ^ 256 := (Nat.mod_le _ _).trans_lt raw.isLt
    rw [sample_of_lt h, Option.some_inj, ← BitVec.toNat_inj, BitVec.toNat_ofNat, Nat.mod_eq_of_lt hmod]
    exact (and_iff_right h).symm
  · rw [sample_of_le (Nat.le_of_not_lt h)]
    exact iff_of_false nofun fun ⟨hlt, _⟩ => h hlt

/-- Settles O54: by `sample_eq_some_iff` the value is the remainder of the raw value, and `k` is the quotient. -/
theorem acceptedValueHasFiveRawValues : Obligations.AcceptedValueHasFiveRawValues := by
  intro raw v
  rw [sample_eq_some_iff]
  constructor
  · rintro ⟨hraw, hmod⟩
    refine ⟨hmod ▸ Nat.mod_lt _ (by decide), raw.toNat / modulus, ?_, ?_⟩
    · exact Nat.le_of_lt_succ (Nat.div_lt_of_lt_mul (Nat.mul_comm .. ▸ hraw))
    · rw [← hmod, Nat.mod_add_div']
  · rintro ⟨hv, k, hk, hraw⟩
    rw [hraw, Nat.add_mul_mod_self_right, Nat.mod_eq_of_lt hv]
    rw [modulus_eq] at hv ⊢
    exact ⟨by omega, rfl⟩

/-! ### The draw step -/

/-- The first word consumed is the lowest limb of the raw value (R211). -/
theorem drawRaw_toNat (w0 w1 w2 w3 : U64) :
    (drawRaw w0 w1 w2 w3).toNat = w0.toNat + 2 ^ 64 * w1.toNat + 2 ^ 128 * w2.toNat + 2 ^ 192 * w3.toNat := by
  rw [drawRaw, ofLimbs_toNat]
  omega

/-- With four words available `RAND` consumes them and settles the draw (R213). -/
theorem exec_rand_of_four {s : State} (rd : FReg) {w0 w1 w2 w3 : U64} {rest : List U64}
    (h : s.entropy = w0 :: w1 :: w2 :: w3 :: rest) :
    exec (.rand rd) s = .next ((s.consumeFour rest).settleDraw rd (sample (drawRaw w0 w1 w2 w3))) := by
  rw [exec, execRand, h]

/-- An accepted draw completes the command with its value in `rd`. -/
@[simp] theorem State.settleDraw_some (s : State) (rd : FReg) (v : U256) :
    s.settleDraw rd (some v) = s.withResult rd v := rfl

/-- A rejected draw changes nothing more. -/
@[simp] theorem State.settleDraw_none (s : State) (rd : FReg) : s.settleDraw rd none = s := rfl

/-- Settles O52, by the two sides of the sampler. -/
theorem randDrawsFourWords : Obligations.RandDrawsFourWords := by
  intro s rd w0 w1 w2 w3 rest h raw
  have hraw : (drawRaw w0 w1 w2 w3).toNat = raw := drawRaw_toNat w0 w1 w2 w3
  rw [exec_rand_of_four rd h]
  constructor
  · intro hlt
    rw [sample_of_lt (hraw ▸ hlt), hraw, State.settleDraw_some]
    rfl
  · intro hle
    rw [sample_of_le (hraw ▸ hle), State.settleDraw_none]
    rfl

/-- Settles O53: fewer than four words are no draw. -/
theorem randWaitsForEntropy : Obligations.RandWaitsForEntropy := by
  intro s rd hshort
  rw [exec, execRand]
  split
  next w0 w1 w2 w3 rest he =>
    rw [he] at hshort
    simp only [List.length_cons] at hshort
    omega
  next => rfl

end Sys2Proof.Machine
end

section
/-! ## The commands `NOP`, `FMOV` and `FLDC` (46_move_system.md R220 to R222)

`FMOV` copies the cell, marks and all; a register with a value is the cell that holds it with every limb written. -/

namespace Sys2Proof.Machine

/-! ### `NOP` -/

/-- Settles O55. -/
theorem nopOnlyCompletes : Obligations.NopOnlyCompletes := by
  intro s
  rfl

/-! ### `FMOV` -/

/-- A register has a value exactly when it is the written cell of that value (10_state.md R51). -/
theorem Cell.value?_eq_some_iff {c : Cell} {v : U256} : c.value? = some v ↔ c = Cell.written v := by
  constructor
  · intro h
    obtain ⟨value, l0, l1, l2, l3⟩ := c
    simp only [Cell.value?, LimbMarks.all, Option.ite_none_right_eq_some, Option.some_inj, Bool.and_eq_true] at h
    obtain ⟨⟨⟨⟨rfl, rfl⟩, rfl⟩, rfl⟩, rfl⟩ := h
    rfl
  · rintro rfl
    exact Cell.written_value? v

/-- A move ends with the cell of its source in its destination. -/
theorem exec_fmov (s : State) (rd rs : FReg) :
    exec (.fmov rd rs) s = .next { s with regs := s.regs.put rd (s.cell rs), busy := false } := rfl

/-- Settles O56, by what is known of the cell copied. -/
theorem fmovCopiesThePattern : Obligations.FmovCopiesThePattern := by
  intro s rd rs
  refine ⟨_, exec_fmov s rd rs, fun x hx => ?_, fun hnone => ?_, fun hsame => ?_, s.cell rs, rfl⟩
  · rw [Cell.value?_eq_some_iff.1 hx, State.withResult]
  · rw [State.source, State.cell, RegFile.get_put, if_pos rfl]
    exact hnone
  · rw [hsame, State.cell, RegFile.put_get]

/-! ### `FLDC` -/

/-- A selector that names a constant loads it. -/
theorem exec_fldc_of_romConst (s : State) (rd : FReg) {c : BitVec 4} {v : U256} (h : romConst c = some v) :
    exec (.fldc rd c) s = .next (s.withResult rd v) := by
  simp only [exec, execFldc, h, State.completeReg_value]

/-- A selector of 6 or more names no constant (10_state.md R37). -/
theorem romConst_of_le {c : BitVec 4} (h : 6 ≤ c.toNat) : romConst c = none := by
  have hall : ∀ c : BitVec 4, 6 ≤ c.toNat → romConst c = none := by decide
  exact hall c h

/-- A selector that names none is refused. -/
theorem exec_fldc_of_romConst_none (s : State) (rd : FReg) {c : BitVec 4} (h : romConst c = none) :
    exec (.fldc rd c) s = .refused .reservedSelector := by
  simp only [exec, execFldc, h]

/-- Settles O57: each selector through the entry of the ROM that it names. -/
theorem fldcLoadsTheConstant : Obligations.FldcLoadsTheConstant := by
  intro s rd
  refine ⟨?zero, ?one, ?p, ?mu, ?pi, ?r2, fun c hc => exec_fldc_of_romConst_none s rd (romConst_of_le hc)⟩
  case zero => exact exec_fldc_of_romConst s rd (v := romZero) rfl
  case one => exact exec_fldc_of_romConst s rd (v := romOne) rfl
  case p => exact exec_fldc_of_romConst s rd (v := romP) rfl
  case mu => exact exec_fldc_of_romConst s rd (v := romMu) rfl
  case pi => exact exec_fldc_of_romConst s rd (v := romPi) rfl
  case r2 => exact exec_fldc_of_romConst s rd (v := romR2) rfl

end Sys2Proof.Machine
end

section
/-! ## Faults (60_exceptions.md R230 to R234) -/

namespace Sys2Proof.Machine

/-- Where a fault is recorded, a later one changes nothing (60_exceptions.md R233). -/
theorem State.raiseFault_of_fault {s : State} (h : s.fault = true) (c : Cause) : s.raiseFault c = s := if_pos h

/-- Settles O19: the codes of the statement are those of `causeCode`, cause by cause. -/
theorem firstFaultIsKept : Obligations.FirstFaultIsKept := by
  intro s c
  refine ⟨fun hf => State.raiseFault_of_fault hf c, fun hf => ?_⟩
  rw [State.raiseFault_of_good hf]
  cases c with
  | illegalOpcode => rfl
  | illegalOperand => rfl
  | cmdHigh => rfl
  | busyViolation => rfl

/-- Settles O11: a step that is no reset leaves `FAULT` and `CAUSE`, or finds no fault recorded. -/
theorem faultStaysUntilReset : Obligations.FaultStaysUntilReset := by
  intro s t hs hn h
  obtain ⟨hreset, _⟩ | ⟨_, k⟩ := step_effect h
  · exact absurd (hn.symm.trans hreset) Bool.false_ne_true
  · obtain ⟨hfault, hcause⟩ | ⟨hgood, _⟩ := k.fault_cases
    · exact ⟨hfault.trans hs, hcause⟩
    · exact absurd (hgood.symm.trans hs) Bool.false_ne_true

/-- Settles O18: a well-formed command answers, and `ExecKind.frame` gives `FAULT` and `CAUSE`. -/
theorem commandsNeverFault : Obligations.CommandsNeverFault := by
  intro i s hwf
  obtain ⟨t, ht⟩ := exists_exec_next hwf s
  obtain ⟨hfault, hcause, _, _⟩ := (exec_next ht).frame
  exact ⟨t, ht, hfault, hcause⟩

end Sys2Proof.Machine
end

section
/-! ## The hard reset input (70_reset_and_hazards.md R260) -/

namespace Sys2Proof.Machine

/-- The step of the event at the head of the agenda, which is taken off (20_memory.md R75). -/
theorem step_of_cons {s : State} {e : Event} {rest : List Event} (h : s.agenda = e :: rest) :
    step s = takeEvent e { s with agenda := rest } := by
  rw [step, nextStep, h]

/-- The level of the hard reset input is no part of the table of R50. -/
theorem State.isReset_assertReset (s : State) : s.assertReset.IsReset := s.isReset_toReset

/-- While the hard reset input is asserted every access is refused, whatever its address (R260). -/
theorem hostStep_of_resetHeld {s : State} (hr : s.resetHeld = true) (a : HostAccess) :
    hostStep a s = .refused .accessUnderReset := if_pos hr

/-- While the hard reset input is asserted the engine does nothing, whatever the phase (R260). -/
theorem engineStep_of_resetHeld {s : State} (hr : s.resetHeld = true) : engineStep s = .next s := by
  simp only [engineStep, hr, Bool.not_true, Bool.and_false, Bool.false_eq_true, if_false]

/-- On the engine's turn under the hard reset nothing but the turn is spent. -/
theorem step_of_engineTurn_of_resetHeld {s : State} (turn : s.engineTurn = true) (hr : s.resetHeld = true) :
    step s = .next s.afterTurn :=
  (step_of_engineTurn turn).trans (engineStep_of_resetHeld (s := s.afterTurn) hr)

/-- Settles O29: assertion, access, the engine's turn in both its forms, and release. -/
theorem hardResetHoldsTheResetState : Obligations.HardResetHoldsTheResetState := by
  intro s rest
  refine ⟨fun ha => ?assert, fun hr a ha => ?access, fun hr ha => ?turn, fun hr ha => ?idle, fun ha => ?release⟩
  case assert =>
    exact ⟨_, step_of_cons ha, State.isReset_assertReset { s with agenda := rest }, rfl, rfl, rfl, rfl, rfl⟩
  case access => exact (step_of_cons ha).trans (hostStep_of_resetHeld (s := { s with agenda := rest }) hr a)
  case turn =>
    have turn : s.engineTurn = true := by rw [State.engineTurn, ha]; rfl
    rw [step_of_engineTurn_of_resetHeld turn hr, State.afterTurn_of_cons ha]
  case idle =>
    have turn : s.engineTurn = true := by rw [State.engineTurn, ha]
    rw [step_of_engineTurn_of_resetHeld turn hr, State.afterTurn_of_nil ha]
  case release => exact step_of_cons ha

end Sys2Proof.Machine
end
